-- ==== Sys2Proof/Word.lean ====
section
/-! DEFINITION. The word types of the core: bytes (registers, timers, memory), 16-bit words (pc, I, stack entries,
instruction words), register numbers and the immediates of the instruction word (00_scope.md R7, R8, R14). -/

namespace Sys2Proof

/-- A V register, a timer or one byte of memory (R7: 8 bits each). -/
abbrev Byte := BitVec 8

/-- The program counter, the index register, a stack entry or an instruction word (R7, R8: 16 bits). -/
abbrev Word := BitVec 16

/-- A register number, the 4-bit field `x` or `y` of an instruction word (R14, R21). -/
abbrev RegNum := BitVec 4

/-- A key number 0x0 to 0xF (R32, R38). -/
abbrev KeyNum := BitVec 4

/-- The row count `n` of Dxyn (R14, R73). -/
abbrev Imm4 := BitVec 4

/-- The immediate `nn` (R14, R73). -/
abbrev Imm8 := BitVec 8

/-- The immediate `nnn` (R14, R73). -/
abbrev Imm12 := BitVec 12

end Sys2Proof
end

