-- ==== Sys2Proof/Config.lean ====
section
/-! DEFINITION. What is fixed for the machine: the parameters the source fixes (00_scope.md R7), the two parameters it
leaves open (R8, D7), and the free values of a step's inputs (10_state.md R38, D9, D21).
The open ones are opaque: nothing proved can rest on a value of theirs. -/

namespace Sys2Proof.Config

/-- MEM_SIZE, in bytes (R7). -/
abbrev memSize : Nat := 4096

/-- PROGRAM_BASE: where `load` writes and where execution starts after reset (R7). -/
abbrev programBase : Nat := 0x200

/-- MAX_PROGRAM = MEM_SIZE − PROGRAM_BASE (R7). -/
abbrev maxProgram : Nat := 0xE00

/-- STACK_DEPTH (R7). -/
abbrev stackDepth : Nat := 16

/-- DISP_W (R7). -/
abbrev dispWidth : Nat := 64

/-- DISP_H (R7). -/
abbrev dispHeight : Nat := 32

/-- FONT_STRIDE, OPEN (R8). Its type is the part of D7's well-formedness that concerns the stride alone:
FONT_BASE + 16·FONT_STRIDE − 1 ≤ 0xFFF leaves at most 256. Log entry 3. -/
opaque fontStride : Fin 257

/-- FONT_BASE, OPEN (R8), within D7's well-formedness condition FONT_BASE + 16·FONT_STRIDE − 1 ≤ 0xFFF. Log entry 3. -/
opaque fontBase : Fin (memSize - 16 * fontStride.val + 1)

/-- FONT_BASE as the 16-bit address Fx29 adds to (R8, R172). -/
def fontBaseAddr : Word := BitVec.ofNat 16 fontBase.val

/-- The random byte of the step with this index, where the host has supplied none: any value (R38, D21). Log entry 2. -/
opaque freeRnd : Nat → Byte

/-- The key edge of the step with this index, where the host has supplied none: any value (R38, D9). Log entry 2. -/
opaque freeKeyEdge : Nat → Option KeyNum

end Sys2Proof.Config
end

