-- ==== Sys2Proof/Syntax.lean ====
section
/-! DEFINITION. The instructions: one constructor per row of spec/opcode_table.json (30_encoding.md R72), in the table's
order, with the operands of R71 and R73. -/

namespace Sys2Proof

/-- The 34 base instructions (R72). Shifts keep the field `y`, which is encoded and ignored (R148, R150). -/
inductive Instr where
  /-- 00E0 -/
  | cls
  /-- 00EE -/
  | ret
  /-- 1nnn -/
  | jp (nnn : Imm12)
  /-- 2nnn -/
  | call (nnn : Imm12)
  /-- 3xnn -/
  | seImm (x : RegNum) (nn : Imm8)
  /-- 4xnn -/
  | sneImm (x : RegNum) (nn : Imm8)
  /-- 5xy0 -/
  | seReg (x y : RegNum)
  /-- 6xnn -/
  | ldImm (x : RegNum) (nn : Imm8)
  /-- 7xnn -/
  | addImm (x : RegNum) (nn : Imm8)
  /-- 8xy0 -/
  | ldReg (x y : RegNum)
  /-- 8xy1 -/
  | orReg (x y : RegNum)
  /-- 8xy2 -/
  | andReg (x y : RegNum)
  /-- 8xy3 -/
  | xorReg (x y : RegNum)
  /-- 8xy4 -/
  | addReg (x y : RegNum)
  /-- 8xy5 -/
  | subReg (x y : RegNum)
  /-- 8xy6 -/
  | shr (x y : RegNum)
  /-- 8xy7 -/
  | subnReg (x y : RegNum)
  /-- 8xyE -/
  | shl (x y : RegNum)
  /-- 9xy0 -/
  | sneReg (x y : RegNum)
  /-- Annn -/
  | ldI (nnn : Imm12)
  /-- Bnnn -/
  | jpV0 (nnn : Imm12)
  /-- Cxnn -/
  | rnd (x : RegNum) (nn : Imm8)
  /-- Dxyn -/
  | drw (x y : RegNum) (n : Imm4)
  /-- Ex9E -/
  | skp (x : RegNum)
  /-- ExA1 -/
  | sknp (x : RegNum)
  /-- Fx07 -/
  | ldVxDt (x : RegNum)
  /-- Fx0A -/
  | ldVxKey (x : RegNum)
  /-- Fx15 -/
  | ldDtVx (x : RegNum)
  /-- Fx18 -/
  | ldStVx (x : RegNum)
  /-- Fx1E -/
  | addIVx (x : RegNum)
  /-- Fx29 -/
  | ldFontVx (x : RegNum)
  /-- Fx33 -/
  | ldBcdVx (x : RegNum)
  /-- Fx55 -/
  | storeRegs (x : RegNum)
  /-- Fx65 -/
  | loadRegs (x : RegNum)
deriving DecidableEq, Repr

/-- One row of the opcode map: a word `w` selects it when `w &&& mask = value` (R72). -/
structure OpcodeRow where
  pattern : String
  value   : Word
  mask    : Word
deriving DecidableEq, Repr

/-- Why bytes are no instruction. -/
inductive DecodeError where
  /-- The word matches no row of R72: an unknown word (R76). The step reports it and goes on (R230); safe. -/
  | unknown (w : Word)
  /-- Fewer than two bytes: every instruction is exactly two (R70). No step meets it; safe. -/
  | truncated
deriving DecidableEq, Repr

end Sys2Proof
end

