-- ==== Sys2Proof/WellFormed.lean ====
section
/-! DEFINITION. The well-formedness checks of the spec: instructions, font parameters, and the requests of the host
operations that fill memory. -/

namespace Sys2Proof

/-- Every term of `Instr` is well formed: "Every combination is legal, including x = y and either of them = 0xF" (R74),
and the widths of the immediates (R73) are the widths of their types. There is nothing left to refuse. -/
def Instr.wellFormed (i : Instr) : Bool :=
  match i with
  | .cls | .ret => true
  | .jp _ | .call _ | .ldI _ | .jpV0 _ => true
  | .seImm _ _ | .sneImm _ _ | .ldImm _ _ | .addImm _ _ | .rnd _ _ => true
  | .seReg _ _ | .ldReg _ _ | .orReg _ _ | .andReg _ _ | .xorReg _ _ | .addReg _ _ | .subReg _ _ | .shr _ _
  | .subnReg _ _ | .shl _ _ | .sneReg _ _ => true
  | .drw _ _ _ => true
  | .skp _ | .sknp _ | .ldVxDt _ | .ldVxKey _ | .ldDtVx _ | .ldStVx _ | .addIVx _ | .ldFontVx _ | .ldBcdVx _
  | .storeRegs _ | .loadRegs _ => true

/-- A well-formed font configuration: FONT_BASE + 16·FONT_STRIDE − 1 ≤ 0xFFF (D7, R172). -/
def fontWellFormed (base : Word) (stride : Nat) : Bool :=
  base.toNat + 16 * stride ≤ Config.memSize

/-- `load` takes at most MAX_PROGRAM bytes (R263). -/
def loadFits (bytes : List Byte) : Bool :=
  bytes.length ≤ Config.maxProgram

/-- `hostWrite` takes bytes that end inside memory; no bytes fit anywhere (R265). -/
def hostWriteFits (addr : Nat) (bytes : List Byte) : Bool :=
  bytes.length == 0 || addr + bytes.length - 1 ≤ 0xFFF

end Sys2Proof
end

