-- ==== Sys2Proof/Decode.lean ====
section
/-! DEFINITION. Decode, total on any word and any bytes (30_encoding.md R70, R75, R76), the encoder (R71, R72), the
opcode map as data (R72), and the host's reading of an opcode-table word. -/

namespace Sys2Proof

/-! ### Fields of an instruction word (00_scope.md R14) -/

/-- `op = w[15:12]`, the high nibble. -/
def opField (w : Word) : BitVec 4 := w.extractLsb' 12 4

/-- `x = w[11:8]`. -/
def xField (w : Word) : RegNum := w.extractLsb' 8 4

/-- `y = w[7:4]`. -/
def yField (w : Word) : RegNum := w.extractLsb' 4 4

/-- `n = w[3:0]`. -/
def nField (w : Word) : Imm4 := w.extractLsb' 0 4

/-- `nn = w[7:0]`. -/
def nnField (w : Word) : Imm8 := w.extractLsb' 0 8

/-- `nnn = w[11:0]`. -/
def nnnField (w : Word) : Imm12 := w.extractLsb' 0 12

/-! ### Decode -/

/-- The second dispatch of family 8, on `w[3:0]` (R75). -/
def decodeAlu (w : Word) : Option Instr :=
  match (nField w).toNat with
  | 0x0 => some (.ldReg (xField w) (yField w))
  | 0x1 => some (.orReg (xField w) (yField w))
  | 0x2 => some (.andReg (xField w) (yField w))
  | 0x3 => some (.xorReg (xField w) (yField w))
  | 0x4 => some (.addReg (xField w) (yField w))
  | 0x5 => some (.subReg (xField w) (yField w))
  | 0x6 => some (.shr (xField w) (yField w))
  | 0x7 => some (.subnReg (xField w) (yField w))
  | 0xE => some (.shl (xField w) (yField w))
  | _ => none

/-- The second dispatch of family E, on `w[7:0]` (R75). -/
def decodeKeySkip (w : Word) : Option Instr :=
  match (nnField w).toNat with
  | 0x9E => some (.skp (xField w))
  | 0xA1 => some (.sknp (xField w))
  | _ => none

/-- The second dispatch of family F, on `w[7:0]` (R75). -/
def decodeMisc (w : Word) : Option Instr :=
  match (nnField w).toNat with
  | 0x07 => some (.ldVxDt (xField w))
  | 0x0A => some (.ldVxKey (xField w))
  | 0x15 => some (.ldDtVx (xField w))
  | 0x18 => some (.ldStVx (xField w))
  | 0x1E => some (.addIVx (xField w))
  | 0x29 => some (.ldFontVx (xField w))
  | 0x33 => some (.ldBcdVx (xField w))
  | 0x55 => some (.storeRegs (xField w))
  | 0x65 => some (.loadRegs (xField w))
  | _ => none

/-- Decode (R75): the row of R72 that a word selects, or `none` for an unknown word (R76). Family 0 fixes all 16 bits,
families 5 and 9 fix the low nibble (C3, D17). -/
def decode (w : Word) : Option Instr :=
  match (opField w).toNat with
  | 0x0 => if w = 0x00E0#16 then some .cls else if w = 0x00EE#16 then some .ret else none
  | 0x1 => some (.jp (nnnField w))
  | 0x2 => some (.call (nnnField w))
  | 0x3 => some (.seImm (xField w) (nnField w))
  | 0x4 => some (.sneImm (xField w) (nnField w))
  | 0x5 => if nField w = 0 then some (.seReg (xField w) (yField w)) else none
  | 0x6 => some (.ldImm (xField w) (nnField w))
  | 0x7 => some (.addImm (xField w) (nnField w))
  | 0x8 => decodeAlu w
  | 0x9 => if nField w = 0 then some (.sneReg (xField w) (yField w)) else none
  | 0xA => some (.ldI (nnnField w))
  | 0xB => some (.jpV0 (nnnField w))
  | 0xC => some (.rnd (xField w) (nnField w))
  | 0xD => some (.drw (xField w) (yField w) (nField w))
  | 0xE => decodeKeySkip w
  | 0xF => decodeMisc w
  | _ => none

/-- Two bytes as one word, the byte at the lower address in bits 15–8 (R52). -/
def bigEndian (hi lo : Byte) : Word := hi ++ lo

/-- Decode the first instruction of a byte sequence: exactly two bytes (R70), or the reason there is none. -/
def decodeBytes (bytes : List Byte) : Except DecodeError (Instr × List Byte) :=
  match bytes with
  | hi :: lo :: rest =>
    match decode (bigEndian hi lo) with
    | some i => .ok (i, rest)
    | none => .error (.unknown (bigEndian hi lo))
  | _ => .error .truncated

/-! ### Encode -/

/-- Format NNN (R71). -/
def encodeNNN (op : BitVec 4) (nnn : Imm12) : Word := op ++ nnn

/-- Format XNN (R71). -/
def encodeXNN (op : BitVec 4) (x : RegNum) (nn : Imm8) : Word := op ++ x ++ nn

/-- Formats XYS and XYN (R71): the last nibble is a fixed sub-opcode or the operand `n`. -/
def encodeXYN (op : BitVec 4) (x y : RegNum) (n : BitVec 4) : Word := op ++ x ++ y ++ n

/-- Format XS (R71). -/
def encodeXS (op : BitVec 4) (x : RegNum) (sub : BitVec 8) : Word := op ++ x ++ sub

/-- The word of an instruction (R71, R72). -/
def encode (i : Instr) : Word :=
  match i with
  | .cls => 0x00E0#16
  | .ret => 0x00EE#16
  | .jp nnn => encodeNNN 0x1 nnn
  | .call nnn => encodeNNN 0x2 nnn
  | .seImm x nn => encodeXNN 0x3 x nn
  | .sneImm x nn => encodeXNN 0x4 x nn
  | .seReg x y => encodeXYN 0x5 x y 0x0
  | .ldImm x nn => encodeXNN 0x6 x nn
  | .addImm x nn => encodeXNN 0x7 x nn
  | .ldReg x y => encodeXYN 0x8 x y 0x0
  | .orReg x y => encodeXYN 0x8 x y 0x1
  | .andReg x y => encodeXYN 0x8 x y 0x2
  | .xorReg x y => encodeXYN 0x8 x y 0x3
  | .addReg x y => encodeXYN 0x8 x y 0x4
  | .subReg x y => encodeXYN 0x8 x y 0x5
  | .shr x y => encodeXYN 0x8 x y 0x6
  | .subnReg x y => encodeXYN 0x8 x y 0x7
  | .shl x y => encodeXYN 0x8 x y 0xE
  | .sneReg x y => encodeXYN 0x9 x y 0x0
  | .ldI nnn => encodeNNN 0xA nnn
  | .jpV0 nnn => encodeNNN 0xB nnn
  | .rnd x nn => encodeXNN 0xC x nn
  | .drw x y n => encodeXYN 0xD x y n
  | .skp x => encodeXS 0xE x 0x9E
  | .sknp x => encodeXS 0xE x 0xA1
  | .ldVxDt x => encodeXS 0xF x 0x07
  | .ldVxKey x => encodeXS 0xF x 0x0A
  | .ldDtVx x => encodeXS 0xF x 0x15
  | .ldStVx x => encodeXS 0xF x 0x18
  | .addIVx x => encodeXS 0xF x 0x1E
  | .ldFontVx x => encodeXS 0xF x 0x29
  | .ldBcdVx x => encodeXS 0xF x 0x33
  | .storeRegs x => encodeXS 0xF x 0x55
  | .loadRegs x => encodeXS 0xF x 0x65

/-! ### The opcode map as data (R72) -/

/-- The row of R72 an instruction belongs to: its pattern, match and mask, copied from the table of R72. -/
def Instr.row (i : Instr) : OpcodeRow :=
  match i with
  | .cls => ⟨"00E0", 0x00E0, 0xFFFF⟩
  | .ret => ⟨"00EE", 0x00EE, 0xFFFF⟩
  | .jp _ => ⟨"1nnn", 0x1000, 0xF000⟩
  | .call _ => ⟨"2nnn", 0x2000, 0xF000⟩
  | .seImm _ _ => ⟨"3xnn", 0x3000, 0xF000⟩
  | .sneImm _ _ => ⟨"4xnn", 0x4000, 0xF000⟩
  | .seReg _ _ => ⟨"5xy0", 0x5000, 0xF00F⟩
  | .ldImm _ _ => ⟨"6xnn", 0x6000, 0xF000⟩
  | .addImm _ _ => ⟨"7xnn", 0x7000, 0xF000⟩
  | .ldReg _ _ => ⟨"8xy0", 0x8000, 0xF00F⟩
  | .orReg _ _ => ⟨"8xy1", 0x8001, 0xF00F⟩
  | .andReg _ _ => ⟨"8xy2", 0x8002, 0xF00F⟩
  | .xorReg _ _ => ⟨"8xy3", 0x8003, 0xF00F⟩
  | .addReg _ _ => ⟨"8xy4", 0x8004, 0xF00F⟩
  | .subReg _ _ => ⟨"8xy5", 0x8005, 0xF00F⟩
  | .shr _ _ => ⟨"8xy6", 0x8006, 0xF00F⟩
  | .subnReg _ _ => ⟨"8xy7", 0x8007, 0xF00F⟩
  | .shl _ _ => ⟨"8xyE", 0x800E, 0xF00F⟩
  | .sneReg _ _ => ⟨"9xy0", 0x9000, 0xF00F⟩
  | .ldI _ => ⟨"Annn", 0xA000, 0xF000⟩
  | .jpV0 _ => ⟨"Bnnn", 0xB000, 0xF000⟩
  | .rnd _ _ => ⟨"Cxnn", 0xC000, 0xF000⟩
  | .drw _ _ _ => ⟨"Dxyn", 0xD000, 0xF000⟩
  | .skp _ => ⟨"Ex9E", 0xE09E, 0xF0FF⟩
  | .sknp _ => ⟨"ExA1", 0xE0A1, 0xF0FF⟩
  | .ldVxDt _ => ⟨"Fx07", 0xF007, 0xF0FF⟩
  | .ldVxKey _ => ⟨"Fx0A", 0xF00A, 0xF0FF⟩
  | .ldDtVx _ => ⟨"Fx15", 0xF015, 0xF0FF⟩
  | .ldStVx _ => ⟨"Fx18", 0xF018, 0xF0FF⟩
  | .addIVx _ => ⟨"Fx1E", 0xF01E, 0xF0FF⟩
  | .ldFontVx _ => ⟨"Fx29", 0xF029, 0xF0FF⟩
  | .ldBcdVx _ => ⟨"Fx33", 0xF033, 0xF0FF⟩
  | .storeRegs _ => ⟨"Fx55", 0xF055, 0xF0FF⟩
  | .loadRegs _ => ⟨"Fx65", 0xF065, 0xF0FF⟩

/-- A word selects a row when `(w & mask) = match` (R72). -/
def OpcodeRow.selects (r : OpcodeRow) (w : Word) : Bool := w &&& r.mask == r.value

/-! ### The host's reading of an opcode-table word -/

/-- The bytes of an opcode-table word in memory order: one 16-bit word, big-endian (R52, R70). -/
def tableWordBytes (nbits w : Nat) : List Byte :=
  let v := BitVec.ofNat 16 (w % 2 ^ nbits)
  [v.extractLsb' 8 8, v.extractLsb' 0 8]

/-- The instruction the decoder reads from an opcode-table word. -/
def decodeTableWord (nbits w : Nat) : Option Instr :=
  match decodeBytes (tableWordBytes nbits w) with
  | .ok (i, _) => some i
  | .error _ => none

end Sys2Proof
end

