-- ==== Sys2Proof/Machine/State.lean ====
section
/-! DEFINITION. The state of the core (10_state.md R20 to R36), plain data; the reasons a step can stop; and the state
right after reset (R37). -/

namespace Sys2Proof.Machine

/-- The fatal causes (60_exceptions.md R220, R222). Entering one is a next state (R221), not a stop of the model. -/
inductive FatalCause where
  /-- Fetch in a Running step with pc > 0xFFE (R101). -/
  | fetchOutOfBounds
  /-- 2nnn with SP = 16 (R123). -/
  | stackOverflow
  /-- 00EE with SP = 0 (R121). -/
  | stackUnderflow
  /-- Dxyn, Fx33, Fx55, Fx65 with a data address above 0xFFF (R54). -/
  | dataOutOfBounds
  /-- Ex9E, ExA1 with V[x] > 0xF (R200, R201). -/
  | keyIndexOutOfRange
  /-- Fx29 with V[x] > 0xF (R172). -/
  | fontDigitOutOfRange
deriving DecidableEq, Repr

/-- The three statuses (R34). -/
inductive Status where
  | running
  | awaitingKey (x : RegNum)
  | halted (c : FatalCause)
deriving DecidableEq, Repr

/-- Memory: (address, byte) pairs, addresses strictly rising, none of them the byte an unlisted address reads as
(`Memory.wf`). -/
abbrev Memory := List Host.Cell

/-- The display buffer, one row of 64 pixels for each of 32 rows; `true` is lit (R31). -/
abbrev Display := Vector (Vector Bool Config.dispWidth) Config.dispHeight

/-- The inputs of one step (R38): a key-press edge or none, and the random byte. -/
structure StepInput where
  keyEdge : Option KeyNum
  rnd     : Byte
deriving DecidableEq, Repr

/-- The outputs of one step (R38). -/
structure StepOutput where
  beep    : Bool := false
  unknown : Option Word := none
  fatal   : Option FatalCause := none
deriving DecidableEq, Repr

/-- The model's own bookkeeping of the step inputs (log entry 2): those the host has supplied for the coming steps, one
entry a step, and a counter that picks the free inputs of a step for which none is supplied. -/
structure Env where
  inputs    : List StepInput := []
  stepIndex : Nat := 0
deriving DecidableEq, Repr

/-- The state: the twelve parts of R20, the outputs of the latest step, and the inputs of the coming ones. -/
structure State where
  /-- V0 to VF (R21); VF is also the flag register (R22). -/
  V : Vector Byte 16
  /-- The index register (R26). -/
  I : Word
  /-- Between steps, the address of the next instruction (R24). -/
  pc : Word
  /-- The call stack's entries, live and stale (R27, R28). -/
  stack : Vector Word Config.stackDepth
  /-- The number of live entries, 0..16 (R27). -/
  SP : Fin (Config.stackDepth + 1)
  /-- The delay timer (R29). -/
  DT : Byte
  /-- The sound timer (R29). -/
  ST : Byte
  /-- 4096 bytes (R30). -/
  mem : Memory
  /-- The display buffer (R31). -/
  disp : Display
  /-- The key latch, bit k is key k (R32). -/
  key : BitVec 16
  /-- Set by 00E0 and Dxyn, cleared by the host (R33). -/
  drawPending : Bool
  /-- Running, awaiting a key, or halted (R34). -/
  status : Status
  /-- The outputs of the latest step (R38). -/
  out : StepOutput
  /-- The inputs of the coming steps (R38); the model's own field (log entry 2). -/
  env : Env
deriving DecidableEq, Repr

/-- The faults: none. Every stop the spec describes is a status of the core (R34, R221), so a step never faults. -/
inductive Fault where
deriving DecidableEq, Repr

/-- The refusals. -/
inductive Refusal where
  /-- Raised by `exec` for an instruction that has no meaning yet; no arm raises it now. Safe. -/
  | notModelled (mnemonic : String)
deriving DecidableEq, Repr

/-- What a meaning and a step answer. -/
abbrev Result := Host.Outcome State Fault Refusal

/-- The state right after reset (R37): every part zero, pc = 0x200, Running; no outputs (R260), no input supplied yet. -/
def State.reset : State where
  V := Vector.replicate 16 0
  I := 0
  pc := 0x200
  stack := Vector.replicate Config.stackDepth 0
  SP := 0
  DT := 0
  ST := 0
  mem := []
  disp := Vector.replicate Config.dispHeight (Vector.replicate Config.dispWidth false)
  key := 0
  drawPending := false
  status := .running
  out := { beep := false, unknown := none, fatal := none }
  env := { inputs := [], stepIndex := 0 }

end Sys2Proof.Machine
end

