-- ==== Sys2Proof/Machine/Ops.lean ====
section
/-! DEFINITION. The named operations over memory, registers, stack, display and status: every meaning is written over
these. Entering a fatal condition (60_exceptions.md R221) and leaving one by reset (R227, R260) are here once. -/

namespace Sys2Proof.Machine

/-! ### Memory (20_memory.md R50 to R56) -/

/-- What an unlisted address reads as: reset zeroes all of memory (R37). -/
def Memory.unlisted : Byte := 0

/-- `MemRead(addr, 1)` (R12). -/
def Memory.read : Memory → Nat → Byte
  | [], _ => Memory.unlisted
  | (b, u) :: m, a => if a = b then u else Memory.read m a

/-- `MemWrite(addr, 1, v)` (R12), keeping the canonical form. -/
def Memory.write : Memory → Nat → Byte → Memory
  | [], a, v => if v = Memory.unlisted then [] else [(a, v)]
  | (b, u) :: m, a, v =>
    if a < b then (if v = Memory.unlisted then (b, u) :: m else (a, v) :: (b, u) :: m)
    else if a = b then (if v = Memory.unlisted then m else (a, v) :: m)
    else (b, u) :: Memory.write m a v

/-- Bytes at ascending addresses from `a` (R56). -/
def Memory.writeBytes : Memory → Nat → List Byte → Memory
  | m, _, [] => m
  | m, a, v :: vs => Memory.writeBytes (m.write a v) (a + 1) vs

/-- The canonical form from an address on: addresses rising, inside memory, none holding the unlisted byte. -/
def Memory.wfFrom : Nat → Memory → Bool
  | _, [] => true
  | lo, (a, v) :: m => decide (lo ≤ a) && decide (a < Config.memSize) && !(v == Memory.unlisted) && Memory.wfFrom (a + 1) m

/-- The canonical form: equal memories are equal lists. -/
def Memory.wf (m : Memory) : Bool := Memory.wfFrom 0 m

/-- Every byte address of an access of `count` bytes from `base` is inside memory; an access of no byte always is
(R54, R191). -/
def inMemory (base count : Nat) : Bool := count == 0 || base + count - 1 ≤ 0xFFF

/-! ### Registers (10_state.md R21, R11) -/

/-- The number of VF. -/
abbrev flagReg : RegNum := 0xF

/-- `V[x]`. -/
def State.reg (s : State) (x : RegNum) : Byte := s.V[x.toNat]'x.isLt

/-- `V[x] <- v`. -/
def State.setReg (s : State) (x : RegNum) (v : Byte) : State := { s with V := s.V.set x.toNat v x.isLt }

/-- A result to `V[x]`, then a flag to VF: the flag is the last write (R22, D13). -/
def State.setRegFlag (s : State) (x : RegNum) (result flag : Byte) : State := (s.setReg x result).setReg flagReg flag

/-- `I <- a` (R26). -/
def State.setI (s : State) (a : Word) : State := { s with I := a }

/-- `DT <- v` (R29). -/
def State.setDT (s : State) (v : Byte) : State := { s with DT := v }

/-- `ST <- v` (R29). -/
def State.setST (s : State) (v : Byte) : State := { s with ST := v }

/-- The memory after a store. -/
def State.setMem (s : State) (m : Memory) : State := { s with mem := m }

/-- The status the core goes on in (R34). -/
def State.setStatus (s : State) (st : Status) : State := { s with status := st }

/-! ### The program counter (40_step_cycle.md R104) -/

/-- `pc <- target`. -/
def State.setPc (s : State) (target : Word) : State := { s with pc := target }

/-- `pc <- pc + 2`: past this instruction's one word. -/
def State.advance (s : State) : State := s.setPc (s.pc + 2)

/-- A skip: `pc + 4` if the condition holds, else `pc + 2` (R120, C1). -/
def State.skipIf (s : State) (cond : Bool) : State := s.setPc (if cond then s.pc + 4 else s.pc + 2)

/-! ### How an instruction ends (40_step_cycle.md R105) -/

/-- Complete: its writes take effect. -/
def complete (s : State) : Result := .next s

/-- Entering a fatal condition (R221): called on the state before the instruction's first write, so that its writes are
discarded; status and the fatal output change, pc keeps the instruction's address, nothing else changes. -/
def State.enterFatal (s : State) (c : FatalCause) : State :=
  { s with status := .halted c, out := { s.out with fatal := some c } }

/-- `raise Fatal(c)` (R13, R221): a next state, in which the core is halted. -/
def raiseFatal (c : FatalCause) (s : State) : Result := .next (s.enterFatal c)

/-- The only way out of Halted is `reset()` (R227): every part of the state at its R37 value (R260). The host's supply of
inputs is no part of the core and stays (log entry 2). -/
def State.resetCore (s : State) : State := { State.reset with env := s.env }

/-! ### The call stack (10_state.md R27, R28) -/

/-- Push: the entry at SP, then SP + 1. For SP < 16; the caller has raised StackOverflow otherwise. -/
def State.push (s : State) (a : Word) (h : s.SP.val < Config.stackDepth) : State :=
  { s with stack := s.stack.set s.SP.val a h, SP := ⟨s.SP.val + 1, Nat.succ_lt_succ h⟩ }

/-- The top entry, `stack[SP − 1]`, for SP > 0. -/
def State.top (s : State) (h : 0 < s.SP.val) : Word :=
  s.stack[s.SP.val - 1]'(by have := s.SP.isLt; simp only [Config.stackDepth] at *; omega)

/-- Pop: SP − 1; the entry is not cleared (R28). -/
def State.pop (s : State) : State := { s with SP := ⟨s.SP.val - 1, by have := s.SP.isLt; omega⟩ }

/-! ### The display (10_state.md R31, 44_display.md R191) -/

/-- `disp[c, r]`. -/
def Display.pixel (d : Display) (c : Fin Config.dispWidth) (r : Fin Config.dispHeight) : Bool := (d[r.val])[c.val]

/-- `disp[c, r] <- disp[c, r] ^ 1`. -/
def Display.toggle (d : Display) (c : Fin Config.dispWidth) (r : Fin Config.dispHeight) : Display :=
  d.set r.val ((d[r.val]).set c.val (!(d.pixel c r)))

/-- Every pixel 0 (R190). -/
def Display.clear : Display := Vector.replicate Config.dispHeight (Vector.replicate Config.dispWidth false)

/-- A column number modulo 64 (R191). -/
def wrapCol (c : Nat) : Fin Config.dispWidth := ⟨c % Config.dispWidth, Nat.mod_lt _ (by decide)⟩

/-- A row number modulo 32 (R191). -/
def wrapRow (r : Nat) : Fin Config.dispHeight := ⟨r % Config.dispHeight, Nat.mod_lt _ (by decide)⟩

/-- One sprite bit of 1 falls on a pixel: collision if it was lit, and the pixel toggles (R191). -/
def drawBit (c : Fin Config.dispWidth) (r : Fin Config.dispHeight) (acc : Display × Bool) : Display × Bool :=
  (acc.1.toggle c r, acc.2 || acc.1.pixel c r)

/-- One sprite row: bit 7 − c of the byte falls on column cx + c (R191, D10). -/
def drawRow (b : Byte) (cx row : Nat) (acc : Display × Bool) : Display × Bool :=
  (List.range 8).foldl
    (fun acc c => if b.getLsbD (7 - c) then drawBit (wrapCol (cx + c)) (wrapRow row) acc else acc) acc

/-- The `n` sprite rows at `base`, drawn at (cx, cy): the display after, and whether a lit pixel was hit (R191). -/
def drawSprite (m : Memory) (base n cx cy : Nat) (d : Display) : Display × Bool :=
  (List.range n).foldl (fun acc r => drawRow (m.read (base + r)) cx (cy + r) acc) (d, false)

/-- A display written by 00E0 or Dxyn: drawPending is set with it (R33, D22). -/
def State.setDisp (s : State) (d : Display) : State := { s with disp := d, drawPending := true }

/-! ### The step's inputs and outputs (10_state.md R38) -/

/-- The inputs of the coming step: the ones the host has supplied, else free values (D9, D21; log entry 2). -/
def Env.current (e : Env) : StepInput :=
  match e.inputs with
  | i :: _ => i
  | [] => { keyEdge := Config.freeKeyEdge e.stepIndex, rnd := Config.freeRnd e.stepIndex }

/-- The inputs of a step are used up by it, key edge included: an edge is never queued (R100, D9). -/
def Env.advance (e : Env) : Env := { inputs := e.inputs.tail, stepIndex := e.stepIndex + 1 }

/-- The inputs of the coming step. -/
def State.input (s : State) : StepInput := s.env.current

/-- The host supplies the inputs of the coming step. -/
def State.withInput (s : State) (i : StepInput) : State := { s with env := { s.env with inputs := i :: s.env.inputs } }

/-- A step starts with `beep = false; unknown = none; fatal = none` (R100). -/
def State.beginStep (s : State) : State := { s with out := { beep := false, unknown := none, fatal := none } }

/-- A step ends with its inputs used up. -/
def State.endStep (s : State) : State := { s with env := s.env.advance }

/-- `report Unknown(w)`, then past the word (R230); the tick follows. -/
def State.reportUnknown (s : State) (w : Word) : State :=
  { s with out := { s.out with unknown := some w }, pc := s.pc + 2 }

/-! ### The tick (60_exceptions.md R240) -/

/-- A timer one tick later: it stops at 0. -/
def tickDown (v : Byte) : Byte := if v = 0 then 0 else v - 1

/-- The tick: both timers count down, and a sound timer at 1 emits a beep (R240, R241). -/
def State.tick (s : State) : State :=
  { s with DT := tickDown s.DT, ST := tickDown s.ST,
           out := { s.out with beep := if s.ST = 1 then true else s.out.beep } }

/-! ### Fetch (40_step_cycle.md R101, R102) and the end of an instruction (R105, R106) -/

/-- The word at pc, or `none` where pc > 0xFFE (R101, R102). -/
def State.fetchWord (s : State) : Option Word :=
  if s.pc.toNat ≤ 0xFFE then some (bigEndian (s.mem.read s.pc.toNat) (s.mem.read (s.pc.toNat + 1))) else none

/-- After an instruction of a Running step: the tick if it completed; none if it raised a fatal condition or entered the
key wait, which are what takes the core out of Running (R105, R106). -/
def State.afterInstr (s : State) : State :=
  match s.status with
  | .running => s.tick
  | .awaitingKey _ => s
  | .halted _ => s

/-- Where the coming step fetches once a word is placed: pc, or the program base where pc is beyond memory. -/
def State.placeAddr (s : State) : Word := if s.pc.toNat ≤ 0xFFE then s.pc else BitVec.ofNat 16 Config.programBase

/-- A word's bytes stored where the coming step fetches, with the core Running and pc inside memory so that it does
fetch: it stands for the host's `load` (R263, log entry 4). -/
def State.placeWord (s : State) (bytes : List Byte) : State :=
  { s with mem := s.mem.writeBytes s.placeAddr.toNat bytes, pc := s.placeAddr, status := .running }

end Sys2Proof.Machine
end

