-- ==== Sys2Proof/Machine/Operands.lean ====
section
/-! DEFINITION. The operand forms: immediates (30_encoding.md R73), the register-indirect addressing through I
(43_index_memory.md R176), the digits and addresses that instructions compute from operands, and 8-bit results
(42_alu.md R152). -/

namespace Sys2Proof.Machine

/-- `zext_16(nnn)` (R73). -/
def addrImm (nnn : Imm12) : Word := nnn.setWidth 16

/-- `zext_16(v)` of a register value (R10). -/
def zextReg (v : Byte) : Word := v.setWidth 16

/-- The target of Bnnn, V0 + nnn with no masking (R128, D2). -/
def State.indexedTarget (s : State) (nnn : Imm12) : Word := zextReg (s.reg 0) + addrImm nnn

/-- The base address of a data access, I (R176). -/
def State.dataAddr (s : State) : Nat := s.I.toNat

/-- Every address I + k, k < count, is inside memory (R54, R176). -/
def State.accessOk (s : State) (count : Nat) : Bool := inMemory s.dataAddr count

/-- The bytes Fx33 stores: hundreds, tens and units of a register value (R173). -/
def bcdBytes (v : Byte) : List Byte :=
  [BitVec.ofNat 8 (v.toNat / 100), BitVec.ofNat 8 (v.toNat / 10 % 10), BitVec.ofNat 8 (v.toNat % 10)]

/-- The registers V0..Vx in order, the bytes Fx55 stores (R174). -/
def State.regsUpTo (s : State) (x : RegNum) : List Byte :=
  (List.range (x.toNat + 1)).map fun i => s.reg (BitVec.ofNat 4 i)

/-- `for i in 0 .. x: V[i] <- MemRead(I + i, 1)` (R175). -/
def State.loadRegsUpTo (s : State) (x : RegNum) : State :=
  (List.range (x.toNat + 1)).foldl (fun t i => t.setReg (BitVec.ofNat 4 i) (s.mem.read (s.dataAddr + i))) s

/-- FONT_BASE + FONT_STRIDE * digit (R172), for any parameters; a well-formed configuration keeps it inside memory. -/
def fontAddr (base : Word) (stride : Nat) (digit : Byte) : Word := BitVec.ofNat 16 (base.toNat + stride * digit.toNat)

/-- The glyph address Fx29 computes with this machine's open parameters (R172, R8). -/
def glyphAddr (digit : Byte) : Word := fontAddr Config.fontBaseAddr Config.fontStride.val digit

/-- A value used as a key number or a font digit is at most 0xF (R200, R201, R172). -/
def isDigit (v : Byte) : Bool := v.toNat ≤ 0xF

/-- `key[k]` (R32). -/
def State.keyDown (s : State) (k : Byte) : Bool := s.key.getLsbD k.toNat

/-- `(a + b) mod 256` (R141, R146, R152). -/
def addByte (a b : Byte) : Byte := BitVec.ofNat 8 (a.toNat + b.toNat)

/-- `(a − b) mod 256` (R147, R149, R152). -/
def subByte (a b : Byte) : Byte := BitVec.ofInt 8 ((a.toNat : Int) - (b.toNat : Int))

/-- `(I + zext_16(V[x])) mod 65536` (R171, D3). -/
def State.indexPlus (s : State) (x : RegNum) : Word := BitVec.ofNat 16 (s.I.toNat + (s.reg x).toNat)

/-- `rnd & nn`, bitwise (R151). -/
def maskRnd (rnd : Byte) (nn : Imm8) : Byte := rnd &&& nn

end Sys2Proof.Machine
end

