-- ==== Sys2Proof/Machine/Alu.lean ====
section
/-! DEFINITION. The ALU (42_alu.md): 6xnn, 7xnn, 8xy0 to 8xy7, 8xyE, Cxnn. Operands are read before any write, the flag
is the last write to a register, and every instruction ends with pc + 2. -/

namespace Sys2Proof.Machine

/-- 6xnn (R140). -/
def execLdImm (x : RegNum) (nn : Imm8) (s : State) : Result := complete (s.setReg x nn).advance

/-- 7xnn (R141): no flag. -/
def execAddImm (x : RegNum) (nn : Imm8) (s : State) : Result := complete (s.setReg x (addByte (s.reg x) nn)).advance

/-- 8xy0 (R142). -/
def execLdReg (x y : RegNum) (s : State) : Result := complete (s.setReg x (s.reg y)).advance

/-- 8xy1 (R143); VF is not reset (D15). -/
def execOrReg (x y : RegNum) (s : State) : Result := complete (s.setReg x (s.reg x ||| s.reg y)).advance

/-- 8xy2 (R144); VF is not reset (D15). -/
def execAndReg (x y : RegNum) (s : State) : Result := complete (s.setReg x (s.reg x &&& s.reg y)).advance

/-- 8xy3 (R145); VF is not reset (D15). -/
def execXorReg (x y : RegNum) (s : State) : Result := complete (s.setReg x (s.reg x ^^^ s.reg y)).advance

/-- 8xy4 (R146). -/
def execAddReg (x y : RegNum) (s : State) : Result :=
  complete (s.setRegFlag x (addByte (s.reg x) (s.reg y)) (carryFlag (s.reg x) (s.reg y))).advance

/-- 8xy5 (R147). -/
def execSubReg (x y : RegNum) (s : State) : Result :=
  complete (s.setRegFlag x (subByte (s.reg x) (s.reg y)) (noBorrowFlag (s.reg x) (s.reg y))).advance

/-- 8xy6 (R148): Vy is not read (D14). -/
def execShr (x _y : RegNum) (s : State) : Result :=
  complete (s.setRegFlag x (s.reg x >>> 1) (shiftRightFlag (s.reg x))).advance

/-- 8xy7 (R149). -/
def execSubnReg (x y : RegNum) (s : State) : Result :=
  complete (s.setRegFlag x (subByte (s.reg y) (s.reg x)) (noBorrowFlag (s.reg y) (s.reg x))).advance

/-- 8xyE (R150): Vy is not read (D14). -/
def execShl (x _y : RegNum) (s : State) : Result :=
  complete (s.setRegFlag x (s.reg x <<< 1) (shiftLeftFlag (s.reg x))).advance

/-- Cxnn (R151): the random byte is an input of this step (R38, D21). -/
def execRnd (x : RegNum) (nn : Imm8) (s : State) : Result := complete (s.setReg x (maskRnd s.input.rnd nn)).advance

end Sys2Proof.Machine
end

