-- ==== Sys2Proof/Machine/ControlFlow.lean ====
section
/-! DEFINITION. Control flow (41_control_flow.md): 00EE, 1nnn, 2nnn, 3xnn, 4xnn, 5xy0, 9xy0, Bnnn. -/

namespace Sys2Proof.Machine

/-- 00EE (R121). -/
def execRet (s : State) : Result :=
  if h : 0 < s.SP.val then complete (s.pop.setPc (s.top h)) else raiseFatal .stackUnderflow s

/-- 1nnn (R122). -/
def execJp (nnn : Imm12) (s : State) : Result := complete (s.setPc (addrImm nnn))

/-- 2nnn (R123): the pushed value is the address of the call's successor (C8). -/
def execCall (nnn : Imm12) (s : State) : Result :=
  if h : s.SP.val < Config.stackDepth then complete ((s.push (s.pc + 2) h).setPc (addrImm nnn))
  else raiseFatal .stackOverflow s

/-- 3xnn (R124). -/
def execSeImm (x : RegNum) (nn : Imm8) (s : State) : Result := complete (s.skipIf (s.reg x == nn))

/-- 4xnn (R125). -/
def execSneImm (x : RegNum) (nn : Imm8) (s : State) : Result := complete (s.skipIf (s.reg x != nn))

/-- 5xy0 (R126). -/
def execSeReg (x y : RegNum) (s : State) : Result := complete (s.skipIf (s.reg x == s.reg y))

/-- 9xy0 (R127). -/
def execSneReg (x y : RegNum) (s : State) : Result := complete (s.skipIf (s.reg x != s.reg y))

/-- Bnnn (R128): always V0. -/
def execJpV0 (nnn : Imm12) (s : State) : Result := complete (s.setPc (s.indexedTarget nnn))

end Sys2Proof.Machine
end

