-- ==== Sys2Proof/Machine/Draw.lean ====
section
/-! DEFINITION. The display instructions (44_display.md): 00E0, Dxyn. -/

namespace Sys2Proof.Machine

/-- 00E0 (R190): drawPending is set even when the buffer was clear (D22). -/
def execCls (s : State) : Result := complete (s.setDisp Display.clear).advance

/-- Dxyn (R191): coordinates are read before VF is written; n = 0 draws nothing and clears VF (D11). -/
def execDrw (x y : RegNum) (n : Imm4) (s : State) : Result :=
  if s.accessOk n.toNat then
    let drawn := drawSprite s.mem s.dataAddr n.toNat (s.reg x).toNat (s.reg y).toNat s.disp
    complete ((s.setDisp drawn.1).setReg flagReg (collisionFlag drawn.2)).advance
  else raiseFatal .dataOutOfBounds s

end Sys2Proof.Machine
end

