-- ==== Sys2Proof/Machine/IndexMemory.lean ====
section
/-! DEFINITION. The index register and memory (43_index_memory.md): Annn, Fx1E, Fx29, Fx33, Fx55, Fx65. No access changes
I (R176, D16). -/

namespace Sys2Proof.Machine

/-- Annn (R170). -/
def execLdI (nnn : Imm12) (s : State) : Result := complete (s.setI (addrImm nnn)).advance

/-- Fx1E (R171): no flag (D3). -/
def execAddIVx (x : RegNum) (s : State) : Result := complete (s.setI (s.indexPlus x)).advance

/-- Fx29 (R172): computes an address, touches no memory (C5). -/
def execLdFontVx (x : RegNum) (s : State) : Result :=
  if isDigit (s.reg x) then complete (s.setI (glyphAddr (s.reg x))).advance else raiseFatal .fontDigitOutOfRange s

/-- Fx33 (R173). -/
def execLdBcdVx (x : RegNum) (s : State) : Result :=
  if s.accessOk 3 then complete (s.setMem (s.mem.writeBytes s.dataAddr (bcdBytes (s.reg x)))).advance
  else raiseFatal .dataOutOfBounds s

/-- Fx55 (R174). -/
def execStoreRegs (x : RegNum) (s : State) : Result :=
  if s.accessOk (x.toNat + 1) then complete (s.setMem (s.mem.writeBytes s.dataAddr (s.regsUpTo x))).advance
  else raiseFatal .dataOutOfBounds s

/-- Fx65 (R175). -/
def execLoadRegs (x : RegNum) (s : State) : Result :=
  if s.accessOk (x.toNat + 1) then complete (s.loadRegsUpTo x).advance else raiseFatal .dataOutOfBounds s

end Sys2Proof.Machine
end

