-- ==== Sys2Proof/Machine/KeysTimers.lean ====
section
/-! DEFINITION. Keys and timers (45_keys_timers.md): Ex9E, ExA1, Fx07, Fx0A, Fx15, Fx18, and the step of a core that
awaits a key (R204). -/

namespace Sys2Proof.Machine

/-- Ex9E (R200). -/
def execSkp (x : RegNum) (s : State) : Result :=
  if isDigit (s.reg x) then complete (s.skipIf (s.keyDown (s.reg x))) else raiseFatal .keyIndexOutOfRange s

/-- ExA1 (R201). -/
def execSknp (x : RegNum) (s : State) : Result :=
  if isDigit (s.reg x) then complete (s.skipIf (!(s.keyDown (s.reg x)))) else raiseFatal .keyIndexOutOfRange s

/-- Fx07 (R202): DT before this step's tick. -/
def execLdVxDt (x : RegNum) (s : State) : Result := complete (s.setReg x s.DT).advance

/-- Fx0A, the step that executes it (R203, D8): it enters the wait; pc stays, and a key edge of this step is discarded. -/
def execLdVxKey (x : RegNum) (s : State) : Result := .next (s.setStatus (.awaitingKey x))

/-- Fx15 (R205). -/
def execLdDtVx (x : RegNum) (s : State) : Result := complete (s.setDT (s.reg x)).advance

/-- Fx18 (R206). -/
def execLdStVx (x : RegNum) (s : State) : Result := complete (s.setST (s.reg x)).advance

/-- A step in AwaitingKey(x) (R204): a key edge completes the Fx0A, and the tick follows; without one nothing happens. -/
def State.keyWait (s : State) (x : RegNum) : State :=
  match s.input.keyEdge with
  | some k => (((s.setReg x (k.setWidth 8)).advance).setStatus .running).tick
  | none => s

end Sys2Proof.Machine
end

