-- ==== Sys2Proof/Machine/Cycle.lean ====
section
/-! DEFINITION. The step cycle: fetch, decode, execute, tick (40_step_cycle.md R100, R107). -/

namespace Sys2Proof.Machine

/-- The body of a Running step (R107), after the outputs are cleared and before the inputs are used up. -/
def runStep (s : State) : Result :=
  match s.fetchWord with
  | none => raiseFatal .fetchOutOfBounds s
  | some w =>
    match decode w with
    | none => .next (s.reportUnknown w).tick
    | some i =>
      match exec i s with
      | .next t => .next t.afterInstr
      | .fault r => .fault r
      | .refused r => .refused r

/-- What a step does, chosen by status (R100). -/
def stepBody (s : State) : Result :=
  match s.status with
  | .halted _ => .next s
  | .awaitingKey x => .next (s.keyWait x)
  | .running => runStep s

/-- The whole step (R100): the outputs are cleared, the body runs, the inputs of the step are used up. -/
def stepCycle (s : State) : Result :=
  match stepBody s.beginStep with
  | .next t => .next t.endStep
  | .fault r => .fault r
  | .refused r => .refused r

end Sys2Proof.Machine
end

