-- ==== Sys2Proof/Machine/Step.lean ====
section
/-! DEFINITION. One step of the core (10_state.md R38, 40_step_cycle.md R100). -/

namespace Sys2Proof.Machine

/-- One step: its inputs are those `State.input` gives, its outputs are in `out` of the next state (R38). -/
def step (s : State) : Host.Outcome State Fault Refusal := stepCycle s

/-- `s` with an opcode-table word stored where the coming step fetches its instruction (log entry 4). -/
def State.withFetchWord (s : State) (nbits w : Nat) : State := s.placeWord (tableWordBytes nbits w)

end Sys2Proof.Machine
end

