-- ==== Sys2Proof/Machine/HostOps.lean ====
section
/-! DEFINITION. The host operations between steps (10_state.md R39), and a run as the one total order of steps and host
operations (20_memory.md R59). -/

namespace Sys2Proof.Machine

/-- The host operations (R39). -/
inductive HostOp where
  | reset
  | load (bytes : List Byte)
  | hostWrite (addr : Nat) (bytes : List Byte)
  | setKeys (k16 : BitVec 16)
  | readDisplay
  | consumeDrawPending
  | readStatus
deriving DecidableEq, Repr

/-- What a host operation answers to its caller. -/
inductive HostReply where
  /-- reset and setKeys answer nothing (R260, R246). -/
  | done
  /-- `Ok` of load and hostWrite (R263, R265). -/
  | ok
  /-- A load that does not fit (R263, R264). -/
  | loadTooLarge
  /-- A hostWrite that passes the end of memory (R265). -/
  | writeOutOfBounds
  /-- The display buffer (R245). -/
  | display (d : Display)
  /-- The draw-pending flag as it was (R245). -/
  | drawPending (b : Bool)
  /-- The status (R223). -/
  | status (st : Status)
deriving DecidableEq, Repr

/-- `load(bytes)` (R263, R264): allowed in any status, rejected whole if it does not fit (C13, D26). -/
def State.load (s : State) (bytes : List Byte) : HostReply × State :=
  if loadFits bytes then (.ok, s.setMem (s.mem.writeBytes Config.programBase bytes)) else (.loadTooLarge, s)

/-- `hostWrite(addr, bytes)` (R265, D25). -/
def State.hostWrite (s : State) (addr : Nat) (bytes : List Byte) : HostReply × State :=
  if hostWriteFits addr bytes then (.ok, s.setMem (s.mem.writeBytes addr bytes)) else (.writeOutOfBounds, s)

/-- `setKeys(k16)` (R246). -/
def State.setKeys (s : State) (k16 : BitVec 16) : State := { s with key := k16 }

/-- `consumeDrawPending()`: read and clear (R245). -/
def State.consumeDrawPending (s : State) : HostReply × State := (.drawPending s.drawPending, { s with drawPending := false })

/-- One host operation: its answer and the state after it (R39). -/
def hostOp (op : HostOp) (s : State) : HostReply × State :=
  match op with
  | .reset => (.done, s.resetCore)
  | .load bytes => s.load bytes
  | .hostWrite addr bytes => s.hostWrite addr bytes
  | .setKeys k16 => (.done, s.setKeys k16)
  | .readDisplay => (.display s.disp, s)
  | .consumeDrawPending => s.consumeDrawPending
  | .readStatus => (.status s.status, s)

/-- One event of a run: a step with its inputs (R38), or a host operation (R39). -/
inductive Event where
  | step (input : StepInput)
  | host (op : HostOp)
deriving DecidableEq, Repr

/-- One event. A step that stops (none does) would leave the state. -/
def Event.apply (e : Event) (s : State) : State :=
  match e with
  | .step input =>
    match Sys2Proof.Machine.step (s.withInput input) with
    | .next t => t
    | .fault _ => s
    | .refused _ => s
  | .host op => (hostOp op s).2

/-- A run: events in their order (R59). -/
def runEvents (es : List Event) (s : State) : State := es.foldl (fun t e => e.apply t) s

end Sys2Proof.Machine
end

