-- ==== Sys2Proof/Safety.lean ====
section
/-! DEFINITION. What claims call safe: the invariant of the reachable states, the table of fatal conditions as a function
(60_exceptions.md R220), which instructions write which register and pc, and what "nothing else changes" means. -/

namespace Sys2Proof.Machine

/-- The invariant every step and host operation keeps. -/
structure State.Inv (s : State) : Prop where
  /-- Memory is canonical: equal memories are equal data. -/
  mem_wf : s.mem.wf = true
  /-- No pc above 0x10FE is ever formed (R25). -/
  pc_le : s.pc.toNat ≤ 0x10FE
  /-- Every stack entry, live or stale, is the address after some call: at most 0x1000 (R123). -/
  stack_le : ∀ k : Fin Config.stackDepth, (s.stack[k.val]).toNat ≤ 0x1000
  /-- A waiting core stands at an Fx0A it has fetched (R203). -/
  wait_pc : ∀ x, s.status = .awaitingKey x → s.pc.toNat ≤ 0xFFE
  /-- A beep is the sound timer's passage to 0 (R241). -/
  beep_st : s.out.beep = true → s.ST = 0
  /-- The fatal output names the cause the core has halted with (R221). -/
  fatal_halted : ∀ c, s.out.fatal = some c → s.status = .halted c
  /-- A fatal condition excludes the beep and the unknown report (R221, R225). -/
  fatal_alone : s.out.fatal ≠ none → s.out.beep = false ∧ s.out.unknown = none

/-- The fatal condition an instruction meets in a state, by the table of R220; `none` where it meets none. -/
def fatalOf (i : Instr) (s : State) : Option FatalCause :=
  match i with
  | .call _ => if s.SP.val = 16 then some .stackOverflow else none
  | .ret => if s.SP.val = 0 then some .stackUnderflow else none
  | .drw _ _ n => if 0 < n.toNat ∧ s.I.toNat + n.toNat - 1 > 0xFFF then some .dataOutOfBounds else none
  | .ldBcdVx _ => if s.I.toNat + 2 > 0xFFF then some .dataOutOfBounds else none
  | .storeRegs x | .loadRegs x => if s.I.toNat + x.toNat > 0xFFF then some .dataOutOfBounds else none
  | .skp x | .sknp x => if (s.reg x).toNat > 0xF then some .keyIndexOutOfRange else none
  | .ldFontVx x => if (s.reg x).toNat > 0xF then some .fontDigitOutOfRange else none
  | .cls | .jp _ | .seImm _ _ | .sneImm _ _ | .seReg _ _ | .ldImm _ _ | .addImm _ _ | .ldReg _ _ | .orReg _ _
  | .andReg _ _ | .xorReg _ _ | .addReg _ _ | .subReg _ _ | .shr _ _ | .subnReg _ _ | .shl _ _ | .sneReg _ _ | .ldI _
  | .jpV0 _ | .rnd _ _ | .ldVxDt _ | .ldVxKey _ | .ldDtVx _ | .ldStVx _ | .addIVx _ => none

/-- The instruction may write V[j]: the writers of R21 and R22. Fx0A writes its register in the step that ends its wait
(R204), not when it is executed. -/
def writesReg (i : Instr) (j : RegNum) : Bool :=
  match i with
  | .ldImm x _ | .addImm x _ | .ldReg x _ | .orReg x _ | .andReg x _ | .xorReg x _ | .rnd x _ | .ldVxDt x => j == x
  | .addReg x _ | .subReg x _ | .shr x _ | .subnReg x _ | .shl x _ => j == x || j == flagReg
  | .drw _ _ _ => j == flagReg
  | .loadRegs x => decide (j.toNat ≤ x.toNat)
  | .cls | .ret | .jp _ | .call _ | .seImm _ _ | .sneImm _ _ | .seReg _ _ | .sneReg _ _ | .ldI _ | .jpV0 _ | .skp _
  | .sknp _ | .ldVxKey _ | .ldDtVx _ | .ldStVx _ | .addIVx _ | .ldFontVx _ | .ldBcdVx _ | .storeRegs _ => false

/-- The jumps, the call, the return and the skips: the instructions that do not always go on to pc + 2 (R104). -/
def setsPc (i : Instr) : Bool :=
  match i with
  | .ret | .jp _ | .call _ | .seImm _ _ | .sneImm _ _ | .seReg _ _ | .sneReg _ _ | .jpV0 _ | .skp _ | .sknp _ => true
  | .cls | .ldImm _ _ | .addImm _ _ | .ldReg _ _ | .orReg _ _ | .andReg _ _ | .xorReg _ _ | .addReg _ _ | .subReg _ _
  | .shr _ _ | .subnReg _ _ | .shl _ _ | .ldI _ | .rnd _ _ | .drw _ _ _ | .ldVxDt _ | .ldVxKey _ | .ldDtVx _ | .ldStVx _
  | .addIVx _ | .ldFontVx _ | .ldBcdVx _ | .storeRegs _ | .loadRegs _ => false

/-- The cause codes (R222); 0 means "no fatal condition". -/
def causeCode (c : Option FatalCause) : Nat :=
  match c with
  | none => 0
  | some .fetchOutOfBounds => 1
  | some .stackOverflow => 2
  | some .stackUnderflow => 3
  | some .dataOutOfBounds => 4
  | some .keyIndexOutOfRange => 5
  | some .fontDigitOutOfRange => 6

/-- A run is safe from a state when it meets no fatal condition: no event leaves the core halted. -/
def SafeRun (es : List Event) (s : State) : Prop :=
  ∀ k, k ≤ es.length → ∀ c, (runEvents (es.take k) s).status ≠ .halted c

/-- The instruction raises a fatal condition: status and the fatal output change, nothing else does (R221). -/
def RaisesFatal (i : Instr) (s : State) (c : FatalCause) : Prop :=
  exec i s = .next { s with status := .halted c, out := { s.out with fatal := some c } }

/-- The two bytes at pc, big-endian (R52). -/
def State.wordAtPc (s : State) : Word := bigEndian (s.mem.read s.pc.toNat) (s.mem.read (s.pc.toNat + 1))

/-- A Running core whose pc is inside memory: its step fetches a word (R100, R101). -/
def State.Fetches (s : State) : Prop := s.status = .running ∧ s.pc.toNat ≤ 0xFFE

/-- `t` is `s` but for the V registers and pc: I, the stack, the timers, every byte of memory, the display, the keys,
drawPending, status, outputs and inputs are as before. -/
def OnlyRegsAndPc (s t : State) : Prop := t = { s with V := t.V, pc := t.pc }

/-- Every V register other than those listed reads as before. -/
def RegsSameBut (s t : State) (written : List RegNum) : Prop := ∀ j, j ∉ written → t.reg j = s.reg j

end Sys2Proof.Machine
end

