-- ==== Sys2Proof/Certificates/Slice0/Obligations.lean ====
section
/-! DEFINITION. The statements for the provers: what spec/'s numbered rules say the core does. -/

open Sys2Proof Sys2Proof.Machine

/-! ### Reset, the step, fatal conditions -/

/-- R37: the value of every part of the state after reset. That status is Running is the spec's decision D27. -/
def Obligations.ResetStateHoldsTheResetTable : Prop :=
  (∀ x, State.reset.reg x = 0) ∧ State.reset.I = 0 ∧ State.reset.pc = 0x200 ∧
    (∀ k : Fin Config.stackDepth, State.reset.stack[k.val] = 0) ∧ State.reset.SP.val = 0 ∧
    State.reset.DT = 0 ∧ State.reset.ST = 0 ∧ (∀ a, State.reset.mem.read a = 0) ∧
    (∀ c r, State.reset.disp.pixel c r = false) ∧ State.reset.key = 0 ∧ State.reset.drawPending = false ∧
    State.reset.status = .running

/-- R260, R261: `reset()` gives every part of the core its reset value, from any state, with no step outputs, and once is
as good as twice. Clearing Halted and AwaitingKey is the spec's decision D27. What the host has supplied as inputs (the model's own field, log entry 2) is no part of the core. -/
def Obligations.ResetOperationRestoresTheResetState : Prop :=
  ∀ s, ∃ t, hostOp .reset s = (.done, t) ∧ t = { State.reset with env := s.env } ∧ hostOp .reset t = (.done, t)

/-- R107: a Running step is fetch, decode, execute, tick, in its three cases. That a step uses up its inputs is the
model's choice (log entry 2), that one which does not complete does not tick is the spec's decision D28. -/
def Obligations.RunningStepFetchesDecodesExecutesTicks : Prop :=
  ∀ s, s.status = .running →
    (0xFFE < s.pc.toNat → step s = .next (s.beginStep.enterFatal .fetchOutOfBounds).endStep) ∧
    (s.pc.toNat ≤ 0xFFE → decode s.wordAtPc = none → step s = .next (s.beginStep.reportUnknown s.wordAtPc).tick.endStep) ∧
    (∀ i, s.pc.toNat ≤ 0xFFE → decode s.wordAtPc = some i → ∃ t, exec i s.beginStep = .next t ∧
      (t.status = .running → step s = .next t.tick.endStep) ∧ (t.status ≠ .running → step s = .next t.endStep))

/-- R101: a fetch past 0xFFE halts the core with pc unchanged (the spec's decision D18), no tick (D28). The outputs held
in `out` and the inputs used up are the model's choices (log entries 5 and 2). -/
def Obligations.FetchPastMemoryHalts : Prop :=
  ∀ s, s.status = .running → 0xFFE < s.pc.toNat →
    step s = .next { s with status := .halted .fetchOutOfBounds,
                            out := { beep := false, unknown := none, fatal := some .fetchOutOfBounds },
                            env := s.env.advance }

/-- R108: a step that starts in Halted changes no state and gives no output; reset leaves Halted; every other host
operation acts on a halted core as on a running one, and leaves it halted. Running after reset is the spec's decision D27,
that other host operations do not clear the halt its decision D26. That `out` and `env` are no state R108 speaks of is the
model's choice (log entries 5 and 2). -/
def Obligations.HaltedStepChangesNothing : Prop :=
  ∀ s c, s.status = .halted c →
    step s = .next { s with out := { beep := false, unknown := none, fatal := none }, env := s.env.advance } ∧
    (hostOp .reset s).2.status = .running ∧
    ∀ op, op ≠ .reset → (hostOp op s).2 = { (hostOp op { s with status := .running }).2 with status := .halted c }

/-- R224: a halt persists, whatever steps and host operations follow, until a reset; and under steps alone nothing of the
core changes. That host operations other than reset do not clear the halt is the spec's decision D26. -/
def Obligations.HaltPersistsUntilReset : Prop :=
  ∀ s c, s.status = .halted c →
    (∀ es, .host .reset ∉ es → (runEvents es s).status = .halted c ∧ (runEvents es s).V = s.V ∧ (runEvents es s).I = s.I ∧
      (runEvents es s).pc = s.pc ∧ (runEvents es s).stack = s.stack ∧ (runEvents es s).SP = s.SP ∧
      (runEvents es s).DT = s.DT ∧ (runEvents es s).ST = s.ST ∧ (runEvents es s).disp = s.disp) ∧
    (∀ n, ∃ t, Host.Core.run core n s = .next t ∧ t = { s with out := t.out, env := t.env })

/-- R230: an unknown word is reported, skipped and followed by the tick; nothing else changes. That
the report is the step's output, and nothing else, is the spec's decision D20; the inputs are used up (log entry 2). -/
def Obligations.UnknownWordIsReportedAndSkipped : Prop :=
  ∀ s, s.Fetches → decode s.wordAtPc = none → ∃ t, step s = .next t ∧
    t = { s with pc := s.pc + 2, DT := t.DT, ST := t.ST,
                 out := { beep := decide (s.ST = 1), unknown := some s.wordAtPc, fatal := none }, env := s.env.advance } ∧
    t.DT.toNat = s.DT.toNat - 1 ∧ t.ST.toNat = s.ST.toNat - 1

/-- R240: the tick. -/
def Obligations.TickCountsDownAndBeeps : Prop :=
  ∀ s : State, s.tick = { s with DT := s.tick.DT, ST := s.tick.ST, out := s.tick.out } ∧
    s.tick.DT.toNat = s.DT.toNat - 1 ∧ s.tick.ST.toNat = s.ST.toNat - 1 ∧
    s.tick.out = { s.out with beep := s.tick.out.beep } ∧
    (s.ST = 1 → s.tick.out.beep = true) ∧ (s.ST ≠ 1 → s.tick.out.beep = s.out.beep)

/-- R220: an instruction halts the core exactly where the table's condition holds, and with the table's cause; a fetch
exactly past 0xFFE; an unknown word never. The last three causes are the spec's decisions D5 and D6. -/
def Obligations.FatalConditionsAreTheTable : Prop :=
  (∀ i s, s.status = .running → ∃ t, exec i s = .next t ∧ ∀ c, t.status = .halted c ↔ fatalOf i s = some c) ∧
    (∀ s t, s.status = .running → step s = .next t →
      (t.status = .halted .fetchOutOfBounds ↔ 0xFFE < s.pc.toNat) ∧
      (s.pc.toNat ≤ 0xFFE → decode s.wordAtPc = none → t.status = .running))

/-- R221, R226: the halted state is the state before the step but for status, the fatal output and the used-up inputs: no
write of the step, no tick, no beep, no unknown report. That pc keeps the faulting address is the spec's decision D18, the
bookkeeping of inputs and outputs the model's choice (log entries 2 and 5). -/
def Obligations.FatalConditionsArePrecise : Prop :=
  ∀ s t c, s.status = .running → step s = .next t → t.status = .halted c →
    t = { s with status := .halted c, out := { beep := false, unknown := none, fatal := some c }, env := s.env.advance }

/-- R222: the cause codes; their numbers are the spec's decision D19. -/
def Obligations.CauseCodesAreTheTable : Prop :=
  causeCode none = 0 ∧ causeCode (some .fetchOutOfBounds) = 1 ∧ causeCode (some .stackOverflow) = 2 ∧
    causeCode (some .stackUnderflow) = 3 ∧ causeCode (some .dataOutOfBounds) = 4 ∧
    causeCode (some .keyIndexOutOfRange) = 5 ∧ causeCode (some .fontDigitOutOfRange) = 6

/-- From every state a step answers a next state: it never stops. -/
def Obligations.EveryStepAnswersANextState : Prop := ∀ s, ∃ t, step s = .next t

/-! ### Encoding -/

/-- R72, R75: decoding the word of an instruction gives the instruction back, with every operand. -/
def Obligations.DecodeOfEncodeIsTheInstruction : Prop :=
  ∀ i : Instr, i.wellFormed = true → decode (encode i) = some i

/-- Encoding what a word decodes to gives the word back: no bit of a word is dropped. -/
def Obligations.EncodeOfDecodeIsTheWord : Prop :=
  ∀ w i, decode w = some i → encode i = w

/-- R72: a word decodes to an instruction of a row exactly when it selects that row by mask and match; no word selects two
rows. -/
def Obligations.DecodeFollowsTheOpcodeMap : Prop :=
  ∀ w, (∀ i, decode w = some i → i.row.selects w = true) ∧
    (∀ i : Instr, i.row.selects w = true → ∃ j, decode w = some j ∧ j.row = i.row)

/-- R76: the unknown words, family by family. -/
def Obligations.UnknownWordsAreTheSixFamilies : Prop :=
  ∀ w : Word, decode w = none ↔
    (w.toNat ≤ 0x0FFF ∧ w ≠ 0x00E0 ∧ w ≠ 0x00EE) ∨
    (w.toNat / 0x1000 = 0x5 ∧ w.toNat % 0x10 ≠ 0) ∨
    (w.toNat / 0x1000 = 0x8 ∧ (w.toNat % 0x10) ∈ [0x8, 0x9, 0xA, 0xB, 0xC, 0xD, 0xF]) ∨
    (w.toNat / 0x1000 = 0x9 ∧ w.toNat % 0x10 ≠ 0) ∨
    (w.toNat / 0x1000 = 0xE ∧ (w.toNat % 0x100) ∉ [0x9E, 0xA1]) ∨
    (w.toNat / 0x1000 = 0xF ∧ (w.toNat % 0x100) ∉ [0x07, 0x0A, 0x15, 0x18, 0x1E, 0x29, 0x33, 0x55, 0x65])

/-- Words written out from the encodings of R71 and R72, one or more of each format. -/
def Obligations.SampleWordsDecodeAsTheOpcodeMapSays : Prop :=
  decode 0b0000000011100000 = some .cls ∧ decode 0b0000000011101110 = some .ret ∧
    decode 0b0010101010111100 = some (.call 0xABC) ∧ decode 0b0011001101000010 = some (.seImm 0x3 0x42) ∧
    decode 0b1000000100100101 = some (.subReg 0x1 0x2) ∧ decode 0b1000111100101110 = some (.shl 0xF 0x2) ∧
    decode 0b1101000000010101 = some (.drw 0x0 0x1 0x5) ∧ decode 0b1110000110011110 = some (.skp 0x1) ∧
    decode 0b1111010101100101 = some (.loadRegs 0x5) ∧ decode 0b0101000100100001 = none ∧ decode 0 = none

/-! ### Control flow -/

/-- R122. -/
def Obligations.JumpSetsPc : Prop :=
  ∀ nnn s, ∃ t, exec (.jp nnn) s = .next t ∧ t.pc.toNat = nnn.toNat ∧ t = { s with pc := t.pc }

/-- R123: with room, the successor's address is pushed and pc is the target; at SP = 16 the call is fatal. -/
def Obligations.CallPushesItsSuccessor : Prop :=
  ∀ nnn s,
    (s.SP.val < 16 → ∃ t, exec (.call nnn) s = .next t ∧ t.SP.val = s.SP.val + 1 ∧
      (∀ k : Fin Config.stackDepth, t.stack[k.val] = if k.val = s.SP.val then s.pc + 2 else s.stack[k.val]) ∧
      t.pc.toNat = nnn.toNat ∧ t = { s with stack := t.stack, SP := t.SP, pc := t.pc }) ∧
    (s.SP.val = 16 → RaisesFatal (.call nnn) s .stackOverflow)

/-- R121: the entry at the new SP becomes pc and is not cleared; at SP = 0 the return is fatal. -/
def Obligations.ReturnPopsTheTopEntry : Prop :=
  ∀ s,
    (∀ k : Fin Config.stackDepth, s.SP.val = k.val + 1 → ∃ t, exec .ret s = .next t ∧ t.SP.val = k.val ∧
      t.pc = s.stack[k.val] ∧ t = { s with SP := t.SP, pc := t.pc }) ∧
    (s.SP.val = 0 → RaisesFatal .ret s .stackUnderflow)

/-- A call with room, then a return, comes back to the instruction after the call with the depth as before; only the
stale entry the call wrote differs. -/
def Obligations.CallThenReturnComesBack : Prop :=
  ∀ nnn s, s.SP.val < 16 → ∃ t u, exec (.call nnn) s = .next t ∧ exec .ret t = .next u ∧ u.pc = s.pc + 2 ∧
    u = { s with pc := u.pc, stack := u.stack } ∧
    ∀ k : Fin Config.stackDepth, k.val ≠ s.SP.val → u.stack[k.val] = s.stack[k.val]

/-- R124 to R127 over R120: the four register skips, pc + 4 where the condition holds, else pc + 2; nothing else
changes. -/
def Obligations.SkipsTestTheirCondition : Prop :=
  ∀ x y nn s,
    exec (.seImm x nn) s = .next { s with pc := if s.reg x = nn then s.pc + 4 else s.pc + 2 } ∧
    exec (.sneImm x nn) s = .next { s with pc := if s.reg x ≠ nn then s.pc + 4 else s.pc + 2 } ∧
    exec (.seReg x y) s = .next { s with pc := if s.reg x = s.reg y then s.pc + 4 else s.pc + 2 } ∧
    exec (.sneReg x y) s = .next { s with pc := if s.reg x ≠ s.reg y then s.pc + 4 else s.pc + 2 }

/-- R128: V0 + nnn; that it is not masked is the spec's decision D2. -/
def Obligations.IndexedJumpAddsV0 : Prop :=
  ∀ nnn s, ∃ t, exec (.jpV0 nnn) s = .next t ∧ t.pc.toNat = (s.reg 0).toNat + nnn.toNat ∧ t = { s with pc := t.pc }

/-! ### ALU -/

/-- R140, R142: load immediate and copy. -/
def Obligations.LoadsWriteTheirRegister : Prop :=
  ∀ x y nn s,
    (∃ t, exec (.ldImm x nn) s = .next t ∧ t.reg x = nn ∧ RegsSameBut s t [x] ∧ t.pc = s.pc + 2 ∧ OnlyRegsAndPc s t) ∧
    (∃ t, exec (.ldReg x y) s = .next t ∧ t.reg x = s.reg y ∧ RegsSameBut s t [x] ∧ t.pc = s.pc + 2 ∧ OnlyRegsAndPc s t)

/-- R141: modulo 256, no flag. -/
def Obligations.AddImmediateWrapsWithoutFlag : Prop :=
  ∀ x nn s, ∃ t, exec (.addImm x nn) s = .next t ∧ (t.reg x).toNat = ((s.reg x).toNat + nn.toNat) % 256 ∧
    RegsSameBut s t [x] ∧ t.pc = s.pc + 2 ∧ OnlyRegsAndPc s t

/-- R143 to R145: OR, AND, XOR, bit by bit; that VF is not reset is the spec's decision D15. -/
def Obligations.LogicIsBitwise : Prop :=
  ∀ x y s,
    (∃ t, exec (.orReg x y) s = .next t ∧
      (∀ k, (t.reg x).getLsbD k = ((s.reg x).getLsbD k || (s.reg y).getLsbD k)) ∧
      RegsSameBut s t [x] ∧ t.pc = s.pc + 2 ∧ OnlyRegsAndPc s t) ∧
    (∃ t, exec (.andReg x y) s = .next t ∧
      (∀ k, (t.reg x).getLsbD k = ((s.reg x).getLsbD k && (s.reg y).getLsbD k)) ∧
      RegsSameBut s t [x] ∧ t.pc = s.pc + 2 ∧ OnlyRegsAndPc s t) ∧
    (∃ t, exec (.xorReg x y) s = .next t ∧
      (∀ k, (t.reg x).getLsbD k = ((s.reg x).getLsbD k ^^ (s.reg y).getLsbD k)) ∧
      RegsSameBut s t [x] ∧ t.pc = s.pc + 2 ∧ OnlyRegsAndPc s t)

/-- R146: the sum modulo 256, and the carry in VF, written last (x = 0xF: the spec's decision D13). -/
def Obligations.AddSetsCarryLast : Prop :=
  ∀ x y s, ∃ t, exec (.addReg x y) s = .next t ∧
    (x ≠ 0xF → (t.reg x).toNat = ((s.reg x).toNat + (s.reg y).toNat) % 256) ∧
    t.reg 0xF = (if (s.reg x).toNat + (s.reg y).toNat > 255 then 1 else 0) ∧
    RegsSameBut s t [x, 0xF] ∧ t.pc = s.pc + 2 ∧ OnlyRegsAndPc s t

/-- R147, R149: the difference modulo 256, and VF = 0 on borrow, else 1 (the spec's decision D12), written last (D13). -/
def Obligations.SubtractSetsNotBorrowLast : Prop :=
  ∀ x y s,
    (∃ t, exec (.subReg x y) s = .next t ∧
      (x ≠ 0xF → (t.reg x).toNat = (256 + (s.reg x).toNat - (s.reg y).toNat) % 256) ∧
      t.reg 0xF = (if (s.reg y).toNat > (s.reg x).toNat then 0 else 1) ∧
      RegsSameBut s t [x, 0xF] ∧ t.pc = s.pc + 2 ∧ OnlyRegsAndPc s t) ∧
    (∃ t, exec (.subnReg x y) s = .next t ∧
      (x ≠ 0xF → (t.reg x).toNat = (256 + (s.reg y).toNat - (s.reg x).toNat) % 256) ∧
      t.reg 0xF = (if (s.reg x).toNat > (s.reg y).toNat then 0 else 1) ∧
      RegsSameBut s t [x, 0xF] ∧ t.pc = s.pc + 2 ∧ OnlyRegsAndPc s t)

/-- R148, R150: Vx shifted by one, the bit shifted out in VF, written last (the spec's decision D13); Vy is not
read (D14). -/
def Obligations.ShiftsSetTheBitShiftedOutLast : Prop :=
  ∀ x y s,
    (∃ t, exec (.shr x y) s = .next t ∧ (x ≠ 0xF → (t.reg x).toNat = (s.reg x).toNat / 2) ∧
      (t.reg 0xF).toNat = (s.reg x).toNat % 2 ∧ RegsSameBut s t [x, 0xF] ∧ t.pc = s.pc + 2 ∧ OnlyRegsAndPc s t) ∧
    (∃ t, exec (.shl x y) s = .next t ∧ (x ≠ 0xF → (t.reg x).toNat = 2 * (s.reg x).toNat % 256) ∧
      (t.reg 0xF).toNat = (s.reg x).toNat / 128 ∧ RegsSameBut s t [x, 0xF] ∧ t.pc = s.pc + 2 ∧ OnlyRegsAndPc s t)

/-- R151: the step's random byte, whatever it is, masked bit by bit; every byte the host may supply included.
That the byte is free is the spec's decision D21. -/
def Obligations.RandomByteIsMaskedBitwise : Prop :=
  ∀ x nn s,
    (∃ t, exec (.rnd x nn) s = .next t ∧ (∀ k, (t.reg x).getLsbD k = (s.input.rnd.getLsbD k && nn.getLsbD k)) ∧
      RegsSameBut s t [x] ∧ t.pc = s.pc + 2 ∧ OnlyRegsAndPc s t) ∧
    (∀ edge r, (s.withInput { keyEdge := edge, rnd := r }).input.rnd = r)

/-- R22: the six flag instructions leave 0 or 1 in VF when they complete, and no other instruction changes VF unless its
operand names it (R21; x = 0xF is the spec's decision D13). -/
def Obligations.FlagsAreZeroOrOne : Prop :=
  ∀ i s t, s.status = .running → exec i s = .next t → t.status = .running →
    ((∃ x y, i = .addReg x y ∨ i = .subReg x y ∨ i = .subnReg x y ∨ i = .shr x y ∨ i = .shl x y ∨ ∃ n, i = .drw x y n) →
      t.reg 0xF = 0 ∨ t.reg 0xF = 1) ∧
    (t.reg 0xF ≠ s.reg 0xF →
      (∃ x y, i = .addReg x y ∨ i = .subReg x y ∨ i = .subnReg x y ∨ i = .shr x y ∨ i = .shl x y ∨ ∃ n, i = .drw x y n) ∨
      (∃ y nn, i = .ldImm 0xF nn ∨ i = .addImm 0xF nn ∨ i = .ldReg 0xF y ∨ i = .orReg 0xF y ∨ i = .andReg 0xF y ∨
        i = .xorReg 0xF y ∨ i = .rnd 0xF nn) ∨
      i = .ldVxDt 0xF ∨ i = .loadRegs 0xF)

/-! ### Index register and memory -/

/-- R170, R171: I becomes nnn, or I + V[x] modulo 65536, with no flag (the width and no flag: the spec's decision D3). -/
def Obligations.IndexIsLoadedAndAdded : Prop :=
  ∀ x nnn s,
    (∃ t, exec (.ldI nnn) s = .next t ∧ t.I.toNat = nnn.toNat ∧ t = { s with I := t.I, pc := s.pc + 2 }) ∧
    (∃ t, exec (.addIVx x) s = .next t ∧ t.I.toNat = (s.I.toNat + (s.reg x).toNat) % 65536 ∧
      t = { s with I := t.I, pc := s.pc + 2 })

/-- R172: I becomes the glyph's address for a digit, whatever the open parameters are; any other operand is fatal.
The fatal case is the spec's decision D6, the bound on the parameters its decision D7. -/
def Obligations.FontAddressIsBasePlusStrideTimesDigit : Prop :=
  ∀ x s,
    ((s.reg x).toNat ≤ 0xF → ∃ t, exec (.ldFontVx x) s = .next t ∧
      t.I.toNat = Config.fontBaseAddr.toNat + Config.fontStride.val * (s.reg x).toNat ∧
      t = { s with I := t.I, pc := s.pc + 2 }) ∧
    (0xF < (s.reg x).toNat → RaisesFatal (.ldFontVx x) s .fontDigitOutOfRange) ∧
    Config.fontBaseAddr.toNat + 15 * Config.fontStride.val + Config.fontStride.val ≤ 0x1000

/-- R173: the three digits at I, I + 1, I + 2, every other byte as before; fatal where I + 2 > 0xFFF (the spec's
decision D5). -/
def Obligations.BcdStoresThreeDigits : Prop :=
  ∀ x s, s.mem.wf = true →
    (s.I.toNat + 2 ≤ 0xFFF → ∃ t, exec (.ldBcdVx x) s = .next t ∧
      (t.mem.read s.I.toNat).toNat = (s.reg x).toNat / 100 ∧
      (t.mem.read (s.I.toNat + 1)).toNat = (s.reg x).toNat / 10 % 10 ∧
      (t.mem.read (s.I.toNat + 2)).toNat = (s.reg x).toNat % 10 ∧
      (∀ a, a < s.I.toNat ∨ s.I.toNat + 2 < a → t.mem.read a = s.mem.read a) ∧
      t = { s with mem := t.mem, pc := s.pc + 2 }) ∧
    (0xFFF < s.I.toNat + 2 → RaisesFatal (.ldBcdVx x) s .dataOutOfBounds)

/-- R174: V0..Vx at I, I + 1, …, every other byte as before, I unchanged (the spec's decision D16);
fatal where I + x > 0xFFF (D5). -/
def Obligations.StoreRegistersWritesV0ToVx : Prop :=
  ∀ x s, s.mem.wf = true →
    (s.I.toNat + x.toNat ≤ 0xFFF → ∃ t, exec (.storeRegs x) s = .next t ∧
      (∀ k : RegNum, k.toNat ≤ x.toNat → t.mem.read (s.I.toNat + k.toNat) = s.reg k) ∧
      (∀ a, a < s.I.toNat ∨ s.I.toNat + x.toNat < a → t.mem.read a = s.mem.read a) ∧
      t = { s with mem := t.mem, pc := s.pc + 2 }) ∧
    (0xFFF < s.I.toNat + x.toNat → RaisesFatal (.storeRegs x) s .dataOutOfBounds)

/-- R175: V0..Vx from I, I + 1, …, the registers above x and everything else as before; I unchanged is the spec's
decision D16, fatal where I + x > 0xFFF its decision D5. -/
def Obligations.LoadRegistersReadsV0ToVx : Prop :=
  ∀ x s,
    (s.I.toNat + x.toNat ≤ 0xFFF → ∃ t, exec (.loadRegs x) s = .next t ∧
      (∀ k : RegNum, k.toNat ≤ x.toNat → t.reg k = s.mem.read (s.I.toNat + k.toNat)) ∧
      (∀ k : RegNum, x.toNat < k.toNat → t.reg k = s.reg k) ∧ t.pc = s.pc + 2 ∧ OnlyRegsAndPc s t) ∧
    (0xFFF < s.I.toNat + x.toNat → RaisesFatal (.loadRegs x) s .dataOutOfBounds)

/-- What Fx55 stored, Fx65 loads back, from the same I and memory, into any registers. -/
def Obligations.StoreThenLoadRestoresRegisters : Prop :=
  ∀ x s t u v, s.mem.wf = true → s.I.toNat + x.toNat ≤ 0xFFF → exec (.storeRegs x) s = .next t →
    u.mem = t.mem → u.I = s.I → exec (.loadRegs x) u = .next v →
    ∀ k : RegNum, v.reg k = if k.toNat ≤ x.toNat then s.reg k else u.reg k

/-- R61, R52: two neighbouring bytes stored by Fx55 are the word the next fetch at their address reads, the byte at the
lower address the more significant. -/
def Obligations.FetchSeesTheLatestStore : Prop :=
  ∀ x s t, s.mem.wf = true → s.I.toNat + x.toNat ≤ 0xFFF → exec (.storeRegs x) s = .next t →
    ∀ j k : RegNum, j.toNat + 1 = k.toNat → k.toNat ≤ x.toNat →
      ∃ w, (t.setPc (s.I + BitVec.ofNat 16 j.toNat)).fetchWord = some w ∧
        w.toNat = (s.reg j).toNat * 256 + (s.reg k).toNat

/-! ### Display -/

/-- R190; that drawPending is set on a clear buffer too is the spec's decision D22. -/
def Obligations.ClearTurnsEveryPixelOff : Prop :=
  ∀ s, ∃ t, exec .cls s = .next t ∧ (∀ c r, t.disp.pixel c r = false) ∧
    t = { s with disp := t.disp, drawPending := true, pc := s.pc + 2 }

/-- R191, R192: the sprite's bit (row j, column i, bit 7 leftmost) toggles the pixel it falls on, modulo 64 and 32; every
other pixel is as before; VF is 1 exactly if a bit of 1 fell on a lit pixel, else 0; fatal where a sprite byte lies past
0xFFF. Bit order and wrapping are the spec's decision D10, n = 0 its D11, VF as operand its D13, the fatal case its D5. -/
def Obligations.DrawTogglesThePixelsUnderTheSprite : Prop :=
  ∀ x y n s,
    (n = 0 ∨ s.I.toNat + n.toNat - 1 ≤ 0xFFF → ∃ t, exec (.drw x y n) s = .next t ∧
      (∀ j i, j < n.toNat → i < 8 →
        let c := wrapCol ((s.reg x).toNat + i)
        let r := wrapRow ((s.reg y).toNat + j)
        t.disp.pixel c r = (s.disp.pixel c r ^^ (s.mem.read (s.I.toNat + j)).getLsbD (7 - i))) ∧
      (∀ c r, (∀ j i, j < n.toNat → i < 8 →
          ¬ (c = wrapCol ((s.reg x).toNat + i) ∧ r = wrapRow ((s.reg y).toNat + j))) →
        t.disp.pixel c r = s.disp.pixel c r) ∧
      (t.reg 0xF = 0 ∨ t.reg 0xF = 1) ∧
      (t.reg 0xF = 1 ↔ ∃ j i, j < n.toNat ∧ i < 8 ∧ (s.mem.read (s.I.toNat + j)).getLsbD (7 - i) = true ∧
        s.disp.pixel (wrapCol ((s.reg x).toNat + i)) (wrapRow ((s.reg y).toNat + j)) = true) ∧
      RegsSameBut s t [0xF] ∧
      t = { s with V := t.V, disp := t.disp, drawPending := true, pc := s.pc + 2 }) ∧
    (n ≠ 0 → 0xFFF < s.I.toNat + n.toNat - 1 → RaisesFatal (.drw x y n) s .dataOutOfBounds)

/-- Drawing the same sprite at the same place twice gives back the display; on a clear buffer the first draw reports no
collision, and the second reports one exactly if the first lit a pixel. -/
def Obligations.DrawingTwiceRestoresTheDisplay : Prop :=
  ∀ x y n s t u v, s.status = .running → exec (.drw x y n) s = .next t → t.status = .running → u.disp = t.disp →
    u.mem = s.mem → u.I = s.I → u.reg x = s.reg x → u.reg y = s.reg y → exec (.drw x y n) u = .next v →
    v.disp = s.disp ∧
      ((∀ c r, s.disp.pixel c r = false) →
        t.reg 0xF = 0 ∧ (v.reg 0xF = 1 ↔ ∃ c r, t.disp.pixel c r = true))

/-! ### Keys and timers -/

/-- R200, R201: skip on key V[x] down, and on key V[x] up; fatal where V[x] > 0xF (the spec's decision D6). -/
def Obligations.KeySkipsTestTheLatch : Prop :=
  ∀ x s,
    ((s.reg x).toNat ≤ 0xF →
      exec (.skp x) s = .next { s with pc := if s.key.getLsbD (s.reg x).toNat = true then s.pc + 4 else s.pc + 2 } ∧
      exec (.sknp x) s = .next { s with pc := if s.key.getLsbD (s.reg x).toNat = false then s.pc + 4 else s.pc + 2 }) ∧
    (0xF < (s.reg x).toNat →
      RaisesFatal (.skp x) s .keyIndexOutOfRange ∧ RaisesFatal (.sknp x) s .keyIndexOutOfRange)

/-- R202, R205, R206: the timer reads and writes. -/
def Obligations.TimersAreReadAndSet : Prop :=
  ∀ x s,
    (∃ t, exec (.ldVxDt x) s = .next t ∧ t.reg x = s.DT ∧ RegsSameBut s t [x] ∧ t.pc = s.pc + 2 ∧ OnlyRegsAndPc s t) ∧
    exec (.ldDtVx x) s = .next { s with DT := s.reg x, pc := s.pc + 2 } ∧
    exec (.ldStVx x) s = .next { s with ST := s.reg x, pc := s.pc + 2 }

/-- R205, R206: the step's tick follows the write: the timer ends at one less, and Fx18 with V[x] = 1 beeps in its own
step, with any other value not. -/
def Obligations.TimerWriteIsTickedInTheSameStep : Prop :=
  ∀ x s, s.Fetches →
    (decode s.wordAtPc = some (.ldDtVx x) → ∃ t, step s = .next t ∧ t.DT.toNat = (s.reg x).toNat - 1) ∧
    (decode s.wordAtPc = some (.ldStVx x) → ∃ t, step s = .next t ∧ t.ST.toNat = (s.reg x).toNat - 1 ∧
      (t.out.beep = true ↔ s.reg x = 1))

/-- R203: Fx0A enters the wait and changes nothing else; its step does not tick, and discards whatever key edge it was
given (the spec's decisions D8 and D28); the bookkeeping of inputs is the model's choice (log entry 2). -/
def Obligations.KeyWaitIsEntered : Prop :=
  ∀ x s, exec (.ldVxKey x) s = .next { s with status := .awaitingKey x } ∧
    (s.Fetches → decode s.wordAtPc = some (.ldVxKey x) →
      step s = .next { s with status := .awaitingKey x, out := { beep := false, unknown := none, fatal := none },
                              env := s.env.advance })

/-- R204: a waiting step with an edge k completes the Fx0A and ticks; without an edge it changes nothing; that
a waiting step does not tick is the spec's decision D28, the bookkeeping of inputs the model's choice (log entry 2). -/
def Obligations.KeyEdgeCompletesTheWait : Prop :=
  ∀ x s, s.status = .awaitingKey x →
    (∀ k, s.input.keyEdge = some k → ∃ t, step s = .next t ∧ (t.reg x).toNat = k.toNat ∧ RegsSameBut s t [x] ∧
      t = { s with V := t.V, pc := s.pc + 2, status := .running, DT := t.DT, ST := t.ST,
                   out := { beep := decide (s.ST = 1), unknown := none, fatal := none }, env := s.env.advance } ∧
      t.DT.toNat = s.DT.toNat - 1 ∧ t.ST.toNat = s.ST.toNat - 1) ∧
    (s.input.keyEdge = none →
      step s = .next { s with out := { beep := false, unknown := none, fatal := none }, env := s.env.advance })

/-! ### Host operations -/

/-- R263, R264: a load that fits fills memory from 0x200 and changes nothing else; one that does not is rejected with no
change (rejecting is the spec's decision D26). -/
def Obligations.LoadFillsTheProgramArea : Prop :=
  ∀ (bytes : List Byte) s, s.mem.wf = true →
    (bytes.length ≤ 0xE00 → ∃ t, hostOp (.load bytes) s = (.ok, t) ∧
      (∀ k (h : k < bytes.length), t.mem.read (0x200 + k) = bytes[k]) ∧
      (∀ a, a < 0x200 ∨ 0x200 + bytes.length ≤ a → t.mem.read a = s.mem.read a) ∧ t = { s with mem := t.mem }) ∧
    (0xE00 < bytes.length → hostOp (.load bytes) s = (.loadTooLarge, s))

/-- R265: the same for `hostWrite`, at any address, bounded by the end of memory; the operation is the spec's decision D25. -/
def Obligations.HostWriteFillsMemory : Prop :=
  ∀ addr (bytes : List Byte) s, s.mem.wf = true →
    (bytes.length = 0 ∨ addr + bytes.length - 1 ≤ 0xFFF → ∃ t, hostOp (.hostWrite addr bytes) s = (.ok, t) ∧
      (∀ k (h : k < bytes.length), t.mem.read (addr + k) = bytes[k]) ∧
      (∀ a, a < addr ∨ addr + bytes.length ≤ a → t.mem.read a = s.mem.read a) ∧ t = { s with mem := t.mem }) ∧
    (0 < bytes.length → 0xFFF < addr + bytes.length - 1 → hostOp (.hostWrite addr bytes) s = (.writeOutOfBounds, s))

/-- R245, R246, R223: the display and the status are read and change nothing, drawPending is read and cleared, the key
latch is set. `readStatus` is the spec's decision D29. -/
def Obligations.HostReadsAndSetKeys : Prop :=
  ∀ s k16, hostOp .readDisplay s = (.display s.disp, s) ∧ hostOp .readStatus s = (.status s.status, s) ∧
    hostOp .consumeDrawPending s = (.drawPending s.drawPending, { s with drawPending := false }) ∧
    hostOp (.setKeys k16) s = (.done, { s with key := k16 })

/-! ### Rules of the whole machine -/

/-- What each instruction may change (R21, R22, R26, R27, R29, R31, R32, R35, R51, R104): memory only by Fx33 and Fx55, the
display only by 00E0 and Dxyn, the stack only by 2nnn and 00EE, I only by Annn, Fx1E, Fx29, DT only by Fx15, ST only by
Fx18, the key latch by none; a V register only by the instructions `writesReg` names; pc other than by pc + 2 only by
jumps, the call, the return and skips; status only by Fx0A and fatal conditions, the outputs only by the latter. That
Fx55 and Fx65 do not write I is the spec's decision D16; the inputs are the model's own (log entry 2). -/
def Obligations.OnlyTheNamedInstructionsWrite : Prop :=
  ∀ i s t, exec i s = .next t →
    t.key = s.key ∧ t.env = s.env ∧
    ((∀ x, i ≠ .ldBcdVx x ∧ i ≠ .storeRegs x) → ∀ a, t.mem.read a = s.mem.read a) ∧
    ((i ≠ .cls ∧ ∀ x y n, i ≠ .drw x y n) → t.disp = s.disp ∧ t.drawPending = s.drawPending) ∧
    ((i ≠ .ret ∧ ∀ a, i ≠ .call a) → t.stack = s.stack ∧ t.SP = s.SP) ∧
    ((∀ a x, i ≠ .ldI a ∧ i ≠ .addIVx x ∧ i ≠ .ldFontVx x) → t.I = s.I) ∧
    ((∀ x, i ≠ .ldDtVx x) → t.DT = s.DT) ∧ ((∀ x, i ≠ .ldStVx x) → t.ST = s.ST) ∧
    (∀ j, writesReg i j = false → t.reg j = s.reg j) ∧
    (fatalOf i s = none → t.out = s.out ∧
      ((∀ x, i ≠ .ldVxKey x) → t.status = s.status ∧ (setsPc i = false → t.pc = s.pc + 2)))

/-- R33: 00E0 and Dxyn set drawPending, and so does every step that changes the display; the host clears it; no step
clears it, and no other instruction sets it. That a draw which changes nothing sets it is the spec's decision D22. -/
def Obligations.DrawPendingIsSetByDrawingOnly : Prop :=
  (∀ s t, step s = .next t → (s.drawPending = true → t.drawPending = true) ∧ (t.disp ≠ s.disp → t.drawPending = true) ∧
    (s.drawPending = false → t.drawPending = true →
      s.Fetches ∧ (decode s.wordAtPc = some .cls ∨ ∃ x y n, decode s.wordAtPc = some (.drw x y n)))) ∧
  (∀ i s t, s.status = .running → exec i s = .next t → t.status = .running → (i = .cls ∨ ∃ x y n, i = .drw x y n) →
    t.drawPending = true) ∧
  (∀ s, (hostOp .consumeDrawPending s).2.drawPending = false)

/-- The key latch is written by reset and setKeys only, never by a step. -/
def Obligations.KeyLatchIsWrittenByTheHostOnly : Prop :=
  ∀ es s, (∀ k, .host (.setKeys k) ∉ es) → .host .reset ∉ es → (runEvents es s).key = s.key

/-- R100: a key edge reaches a waiting core only: a Running or Halted step is the same whatever edge it is given; and no
instruction but Cxnn depends on the step's inputs. That the edge is discarded is the spec's decision D9. -/
def Obligations.InputsReachOnlyTheWaitAndTheRandomByte : Prop :=
  (∀ (s : State) e e' r, (∀ x, s.status ≠ .awaitingKey x) →
    step (s.withInput { keyEdge := e, rnd := r }) = step (s.withInput { keyEdge := e', rnd := r })) ∧
  (∀ i s t env, (∀ x nn, i ≠ .rnd x nn) → exec i s = .next t → exec i { s with env := env } = .next { t with env := env })

/-- R109: a Running step that stays Running moves pc, but for a jump, call or return to its own address. -/
def Obligations.RunningStepMovesPc : Prop :=
  ∀ s t, s.status = .running → step s = .next t → t.status = .running → t.pc = s.pc →
    (∃ nnn, nnn.toNat = s.pc.toNat ∧ (decode s.wordAtPc = some (.jp nnn) ∨ decode s.wordAtPc = some (.call nnn))) ∨
    (∃ nnn, (s.reg 0).toNat + nnn.toNat = s.pc.toNat ∧ decode s.wordAtPc = some (.jpV0 nnn)) ∨
    (∃ k : Fin Config.stackDepth, s.SP.val = k.val + 1 ∧ s.stack[k.val] = s.pc ∧ decode s.wordAtPc = some .ret)

/-- The state after reset meets the invariant. -/
def Obligations.ResetStateMeetsTheInvariant : Prop := State.reset.Inv

/-- Every step keeps the invariant (canonical memory; pc at most 0x10FE, R25; stack entries at most 0x1000; outputs that
agree with the state). -/
def Obligations.EveryStepKeepsTheInvariant : Prop :=
  ∀ s t : State, s.Inv → step s = .next t → t.Inv

/-- Every host operation keeps the invariant. -/
def Obligations.EveryHostOperationKeepsTheInvariant : Prop :=
  ∀ (s : State) op, s.Inv → (hostOp op s).2.Inv

/-- From reset, whatever the host loads, writes and supplies, every state of every run meets the invariant, and a step from
it answers a next state. -/
def Obligations.EveryRunFromResetMeetsTheInvariant : Prop :=
  ∀ es, (runEvents es State.reset).Inv ∧ ∃ t, step (runEvents es State.reset) = .next t
end

