-- ==== Sys2Proof/Laws/Display.lean ====
section
/-! SUPPORT. The display: reading a pixel after a toggle, after a clear, and after a sprite. A sprite's rows and columns
fall on different pixels (44_display.md R192), so each pixel toggles once or not at all. -/

namespace Sys2Proof.Machine

@[simp] theorem Display.pixel_clear (c : Fin Config.dispWidth) (r : Fin Config.dispHeight) :
    Display.clear.pixel c r = false := by
  simp [Display.pixel, Display.clear]

@[simp] theorem Display.pixel_toggle (d : Display) (c c' : Fin Config.dispWidth) (r r' : Fin Config.dispHeight) :
    (d.toggle c r).pixel c' r' = if c' = c ∧ r' = r then !(d.pixel c r) else d.pixel c' r' := by
  simp only [Display.pixel, Display.toggle, Vector.getElem_set]
  by_cases hr : r.val = r'.val
  · have hr' : r' = r := Fin.ext hr.symm
    subst hr'
    by_cases hc : c.val = c'.val
    · have hc' : c' = c := Fin.ext hc.symm
      subst hc'
      simp
    · have hc' : c' ≠ c := fun h => hc (h ▸ rfl)
      simp [hc, hc']
  · have hr' : r' ≠ r := fun h => hr (h ▸ rfl)
    simp [hr, hr']

/-- Two displays with the same pixels are the same. -/
theorem Display.ext_pixel {d d' : Display} (h : ∀ c r, d.pixel c r = d'.pixel c r) : d = d' := by
  apply Vector.ext
  intro r hr
  apply Vector.ext
  intro c hc
  exact h ⟨c, hc⟩ ⟨r, hr⟩

theorem wrapCol_inj {cx i j : Nat} (hi : i < 8) (hj : j < 8) (h : wrapCol (cx + i) = wrapCol (cx + j)) : i = j := by
  simp only [wrapCol, Fin.mk.injEq, Config.dispWidth] at h
  omega

theorem wrapRow_inj {cy i j : Nat} (hi : i < 16) (hj : j < 16) (h : wrapRow (cy + i) = wrapRow (cy + j)) : i = j := by
  simp only [wrapRow, Fin.mk.injEq, Config.dispHeight] at h
  omega

/-- Pixel (c, r) is under a 1 bit among the first `j` columns of one sprite row. -/
def UnderRow (b : Byte) (cx row j : Nat) (c : Fin Config.dispWidth) (r : Fin Config.dispHeight) : Prop :=
  ∃ i, i < j ∧ b.getLsbD (7 - i) = true ∧ c = wrapCol (cx + i) ∧ r = wrapRow row

/-- Pixel (c, r) is under a 1 bit among the first `k` rows of a sprite (R191). -/
def UnderSprite (m : Memory) (base cx cy k : Nat) (c : Fin Config.dispWidth) (r : Fin Config.dispHeight) : Prop :=
  ∃ j, j < k ∧ UnderRow (m.read (base + j)) cx (cy + j) 8 c r

theorem underRow_zero (b : Byte) (cx row : Nat) (c : Fin Config.dispWidth) (r : Fin Config.dispHeight) :
    ¬ UnderRow b cx row 0 c r := fun ⟨_, hi, _⟩ => absurd hi (Nat.not_lt_zero _)

theorem underSprite_zero (m : Memory) (base cx cy : Nat) (c : Fin Config.dispWidth) (r : Fin Config.dispHeight) :
    ¬ UnderSprite m base cx cy 0 c r := fun ⟨_, hj, _⟩ => absurd hj (Nat.not_lt_zero _)

open Classical in
/-- One sprite row, some columns on: the pixels under its 1 bits are toggled, and a lit one among them is a hit. -/
theorem drawRow_prefix (b : Byte) (cx row : Nat) (acc : Display × Bool) (j : Nat) (hj : j ≤ 8) :
    ∃ d hit,
      (List.range j).foldl
        (fun acc c => if b.getLsbD (7 - c) then drawBit (wrapCol (cx + c)) (wrapRow row) acc else acc) acc = (d, hit) ∧
      (∀ c r, d.pixel c r = (acc.1.pixel c r ^^ decide (UnderRow b cx row j c r))) ∧
      (hit = true ↔ acc.2 = true ∨ ∃ c r, UnderRow b cx row j c r ∧ acc.1.pixel c r = true) := by
  induction j with
  | zero => exact ⟨acc.1, acc.2, rfl, fun c r => by simp [underRow_zero], by simp [underRow_zero]⟩
  | succ j ih =>
    obtain ⟨d, hit, hfold, hpix, hhit⟩ := ih (by omega)
    have hsucc : ∀ c r, UnderRow b cx row (j + 1) c r ↔ UnderRow b cx row j c r ∨
        (b.getLsbD (7 - j) = true ∧ c = wrapCol (cx + j) ∧ r = wrapRow row) := by
      intro c r
      constructor
      · rintro ⟨i, hi, h⟩
        rcases Nat.lt_succ_iff_lt_or_eq.mp hi with hlt | rfl
        · exact .inl ⟨i, hlt, h⟩
        · exact .inr h
      · rintro (⟨i, hi, h⟩ | h)
        · exact ⟨i, by omega, h⟩
        · exact ⟨j, by omega, h⟩
    have hfresh : ¬ UnderRow b cx row j (wrapCol (cx + j)) (wrapRow row) := by
      rintro ⟨i, hi, -, hc, -⟩
      have := wrapCol_inj (by omega) (by omega) hc
      omega
    rw [List.range_succ, List.foldl_append, hfold]
    by_cases hb : b.getLsbD (7 - j) = true
    · refine ⟨_, _, by simp only [List.foldl_cons, List.foldl_nil, hb, if_true]; rfl, fun c r => ?_, ?_⟩
      · rw [Display.pixel_toggle]
        by_cases hcr : c = wrapCol (cx + j) ∧ r = wrapRow row
        · obtain ⟨rfl, rfl⟩ := hcr
          simp [hpix, hfresh, hsucc, hb]
        · rw [if_neg hcr, hpix]
          congr 1
          exact decide_eq_decide.mpr ((hsucc c r).trans (or_iff_left fun h => hcr h.2)).symm
      · simp only [Bool.or_eq_true, hhit, hpix]
        simp only [hfresh, decide_false, Bool.xor_false]
        constructor
        · rintro ((h | ⟨c, r, hu, hl⟩) | h)
          · exact .inl h
          · exact .inr ⟨c, r, (hsucc c r).mpr (.inl hu), hl⟩
          · exact .inr ⟨_, _, (hsucc _ _).mpr (.inr ⟨hb, rfl, rfl⟩), h⟩
        · rintro (h | ⟨c, r, hu, hl⟩)
          · exact .inl (.inl h)
          · rcases (hsucc c r).mp hu with hu | ⟨-, rfl, rfl⟩
            · exact .inl (.inr ⟨c, r, hu, hl⟩)
            · exact .inr hl
    · have hsame : ∀ c r, UnderRow b cx row (j + 1) c r ↔ UnderRow b cx row j c r := by
        intro c r
        exact (hsucc c r).trans (or_iff_left fun h => hb h.1)
      refine ⟨d, hit, by simp only [List.foldl_cons, List.foldl_nil, hb]; rfl, fun c r => ?_, ?_⟩
      · rw [hpix]
        congr 1
        exact decide_eq_decide.mpr (hsame c r).symm
      · simp only [hhit, hsame]

open Classical in
/-- A sprite, some rows on. -/
theorem drawSprite_prefix (m : Memory) (base cx cy : Nat) (d₀ : Display) (k : Nat) (hk : k ≤ 15) :
    (∀ c r, (drawSprite m base k cx cy d₀).1.pixel c r = (d₀.pixel c r ^^ decide (UnderSprite m base cx cy k c r))) ∧
      ((drawSprite m base k cx cy d₀).2 = true ↔ ∃ c r, UnderSprite m base cx cy k c r ∧ d₀.pixel c r = true) := by
  induction k with
  | zero => exact ⟨fun c r => by simp [drawSprite, underSprite_zero], by simp [drawSprite, underSprite_zero]⟩
  | succ k ih =>
    obtain ⟨hpix, hhit⟩ := ih (by omega)
    have hsucc : ∀ c r, UnderSprite m base cx cy (k + 1) c r ↔ UnderSprite m base cx cy k c r ∨
        UnderRow (m.read (base + k)) cx (cy + k) 8 c r := by
      intro c r
      constructor
      · rintro ⟨j, hj, h⟩
        rcases Nat.lt_succ_iff_lt_or_eq.mp hj with hlt | rfl
        · exact .inl ⟨j, hlt, h⟩
        · exact .inr h
      · rintro (⟨j, hj, h⟩ | h)
        · exact ⟨j, by omega, h⟩
        · exact ⟨k, by omega, h⟩
    have hfresh : ∀ c r, UnderRow (m.read (base + k)) cx (cy + k) 8 c r → ¬ UnderSprite m base cx cy k c r := by
      rintro c r ⟨-, -, -, -, hr⟩ ⟨j, hj, -, -, -, -, hr'⟩
      have := wrapRow_inj (by omega) (by omega) (hr.symm.trans hr')
      omega
    obtain ⟨d, hit, hfold, hp, hh⟩ :=
      drawRow_prefix (m.read (base + k)) cx (cy + k) (drawSprite m base k cx cy d₀) 8 (by omega)
    have hdraw : drawSprite m base (k + 1) cx cy d₀ = (d, hit) := by
      rw [← hfold]
      simp only [drawSprite, drawRow, List.range_succ, List.foldl_append, List.foldl_cons, List.foldl_nil]
    rw [hdraw]
    refine ⟨fun c r => ?_, ?_⟩
    · rw [hp, hpix]
      by_cases hu : UnderRow (m.read (base + k)) cx (cy + k) 8 c r
      · simp [hu, hfresh c r hu, hsucc]
      · simp [hu, hsucc]
    · rw [hh, hhit]
      constructor
      · rintro (⟨c, r, hu, hl⟩ | ⟨c, r, hu, hl⟩)
        · exact ⟨c, r, (hsucc c r).mpr (.inl hu), hl⟩
        · refine ⟨c, r, (hsucc c r).mpr (.inr hu), ?_⟩
          rw [hpix] at hl
          simpa [hfresh c r hu] using hl
      · rintro ⟨c, r, hu, hl⟩
        rcases (hsucc c r).mp hu with hu' | hu'
        · exact .inl ⟨c, r, hu', hl⟩
        · refine .inr ⟨c, r, hu', ?_⟩
          rw [hpix]
          simpa [hfresh c r hu'] using hl

/-- What drawing a sprite of at most 15 rows does (R191, R192): the pixels under its 1 bits are toggled, every other pixel
is as before, and a hit is a lit pixel under a 1 bit. -/
theorem drawSprite_spec (m : Memory) (base cx cy : Nat) (d : Display) (k : Nat) (hk : k ≤ 15) :
    (∀ c r, UnderSprite m base cx cy k c r → (drawSprite m base k cx cy d).1.pixel c r = !(d.pixel c r)) ∧
      (∀ c r, ¬ UnderSprite m base cx cy k c r → (drawSprite m base k cx cy d).1.pixel c r = d.pixel c r) ∧
      ((drawSprite m base k cx cy d).2 = true ↔ ∃ c r, UnderSprite m base cx cy k c r ∧ d.pixel c r = true) := by
  obtain ⟨hpix, hhit⟩ := drawSprite_prefix m base cx cy d k hk
  exact ⟨fun c r h => by simp [hpix, h], fun c r h => by simp [hpix, h], hhit⟩

/-- The bit of a sprite's row j and column i decides whether the pixel it falls on is under the sprite: no other bit of the
sprite falls there (R192). -/
theorem underSprite_iff_bit {m : Memory} {base cx cy k j i : Nat} (hk : k ≤ 15) (hj : j < k) (hi : i < 8) :
    UnderSprite m base cx cy k (wrapCol (cx + i)) (wrapRow (cy + j)) ↔ (m.read (base + j)).getLsbD (7 - i) = true := by
  constructor
  · rintro ⟨j', hj', i', hi', hb, hc, hr⟩
    have h1 := wrapCol_inj hi hi' hc
    have h2 := wrapRow_inj (by omega) (by omega) hr
    subst h1 h2
    exact hb
  · intro hb
    exact ⟨j, hj, i, hi, hb, rfl, rfl⟩

end Sys2Proof.Machine
end

