-- ==== Sys2Proof/Laws/Encoding.lean ====
section
/-! SUPPORT. The instruction formats bit by bit: each bit of an encoded word is a bit of one of its fields, and each field
read from an encoded word is the field it was built from (30_encoding.md R71). -/

namespace Sys2Proof

/-! ### Bits of an encoded word -/

theorem getLsbD_encodeNNN (op : BitVec 4) (nnn : Imm12) (i : Nat) :
    (encodeNNN op nnn).getLsbD i = if i < 12 then nnn.getLsbD i else op.getLsbD (i - 12) := by
  simp only [encodeNNN, @BitVec.getLsbD_append 4 12]

theorem getLsbD_encodeXNN (op : BitVec 4) (x : RegNum) (nn : Imm8) (i : Nat) :
    (encodeXNN op x nn).getLsbD i =
      if i < 8 then nn.getLsbD i else if i < 12 then x.getLsbD (i - 8) else op.getLsbD (i - 12) := by
  simp only [encodeXNN, @BitVec.getLsbD_append (4 + 4) 8, @BitVec.getLsbD_append 4 4]
  split
  · rfl
  · simp only [show (i - 8 < 4) = (i < 12) from propext (by omega), Nat.sub_sub]

theorem getLsbD_encodeXYN (op : BitVec 4) (x y : RegNum) (n : BitVec 4) (i : Nat) :
    (encodeXYN op x y n).getLsbD i =
      if i < 4 then n.getLsbD i else if i < 8 then y.getLsbD (i - 4)
      else if i < 12 then x.getLsbD (i - 8) else op.getLsbD (i - 12) := by
  simp only [encodeXYN, @BitVec.getLsbD_append (4 + 4 + 4) 4, @BitVec.getLsbD_append (4 + 4) 4, @BitVec.getLsbD_append 4 4]
  split
  · rfl
  · simp only [show (i - 4 < 4) = (i < 8) from propext (by omega), Nat.sub_sub, Nat.reduceAdd,
      show (i - 8 < 4) = (i < 12) from propext (by omega)]

theorem getLsbD_encodeXS (op : BitVec 4) (x : RegNum) (sub : BitVec 8) (i : Nat) :
    (encodeXS op x sub).getLsbD i =
      if i < 8 then sub.getLsbD i else if i < 12 then x.getLsbD (i - 8) else op.getLsbD (i - 12) :=
  getLsbD_encodeXNN op x sub i

/-! ### Fields of an encoded word -/

section Fields
variable (op : BitVec 4) (x y : RegNum) (n : BitVec 4) (nn : Imm8) (nnn : Imm12)

@[simp] theorem opField_encodeNNN : opField (encodeNNN op nnn) = op := by
  apply BitVec.eq_of_getLsbD_eq
  intro i hi
  simp [opField, getLsbD_encodeNNN, hi, -BitVec.getLsbD_eq_getElem]

@[simp] theorem nnnField_encodeNNN : nnnField (encodeNNN op nnn) = nnn := by
  apply BitVec.eq_of_getLsbD_eq
  intro i hi
  simp [nnnField, getLsbD_encodeNNN, hi, -BitVec.getLsbD_eq_getElem]

@[simp] theorem opField_encodeXNN : opField (encodeXNN op x nn) = op := by
  apply BitVec.eq_of_getLsbD_eq
  intro i hi
  simp [opField, getLsbD_encodeXNN, hi, show ¬ 12 + i < 8 by omega, -BitVec.getLsbD_eq_getElem]

@[simp] theorem xField_encodeXNN : xField (encodeXNN op x nn) = x := by
  apply BitVec.eq_of_getLsbD_eq
  intro i hi
  simp [xField, getLsbD_encodeXNN, hi, show 8 + i < 12 by omega, -BitVec.getLsbD_eq_getElem]

@[simp] theorem nnField_encodeXNN : nnField (encodeXNN op x nn) = nn := by
  apply BitVec.eq_of_getLsbD_eq
  intro i hi
  simp [nnField, getLsbD_encodeXNN, hi, -BitVec.getLsbD_eq_getElem]

@[simp] theorem opField_encodeXYN : opField (encodeXYN op x y n) = op := by
  apply BitVec.eq_of_getLsbD_eq
  intro i hi
  simp [opField, getLsbD_encodeXYN, hi, show ¬ 12 + i < 4 by omega, show ¬ 12 + i < 8 by omega, -BitVec.getLsbD_eq_getElem]

@[simp] theorem xField_encodeXYN : xField (encodeXYN op x y n) = x := by
  apply BitVec.eq_of_getLsbD_eq
  intro i hi
  simp [xField, getLsbD_encodeXYN, hi, show ¬ 8 + i < 4 by omega, show 8 + i < 12 by omega, -BitVec.getLsbD_eq_getElem]

@[simp] theorem yField_encodeXYN : yField (encodeXYN op x y n) = y := by
  apply BitVec.eq_of_getLsbD_eq
  intro i hi
  simp [yField, getLsbD_encodeXYN, hi, show 4 + i < 8 by omega, -BitVec.getLsbD_eq_getElem]

@[simp] theorem nField_encodeXYN : nField (encodeXYN op x y n) = n := by
  apply BitVec.eq_of_getLsbD_eq
  intro i hi
  simp [nField, getLsbD_encodeXYN, hi, -BitVec.getLsbD_eq_getElem]

@[simp] theorem opField_encodeXS : opField (encodeXS op x nn) = op := opField_encodeXNN op x nn
@[simp] theorem xField_encodeXS : xField (encodeXS op x nn) = x := xField_encodeXNN op x nn
@[simp] theorem nnField_encodeXS : nnField (encodeXS op x nn) = nn := nnField_encodeXNN op x nn

end Fields

/-! ### A word is its fields -/

theorem encodeNNN_fields (w : Word) : encodeNNN (opField w) (nnnField w) = w := by
  apply BitVec.eq_of_getLsbD_eq
  intro i hi
  rw [getLsbD_encodeNNN]
  split
  · rename_i h
    simp [nnnField, h, -BitVec.getLsbD_eq_getElem]
  · simp [opField, show i - 12 < 4 by omega, show 12 + (i - 12) = i by omega, -BitVec.getLsbD_eq_getElem]

theorem encodeXNN_fields (w : Word) : encodeXNN (opField w) (xField w) (nnField w) = w := by
  apply BitVec.eq_of_getLsbD_eq
  intro i hi
  rw [getLsbD_encodeXNN]
  split
  · rename_i h
    simp [nnField, h, -BitVec.getLsbD_eq_getElem]
  · split
    · simp [xField, show i - 8 < 4 by omega, show 8 + (i - 8) = i by omega, -BitVec.getLsbD_eq_getElem]
    · simp [opField, show i - 12 < 4 by omega, show 12 + (i - 12) = i by omega, -BitVec.getLsbD_eq_getElem]

theorem encodeXYN_fields (w : Word) : encodeXYN (opField w) (xField w) (yField w) (nField w) = w := by
  apply BitVec.eq_of_getLsbD_eq
  intro i hi
  rw [getLsbD_encodeXYN]
  split
  · rename_i h
    simp [nField, h, -BitVec.getLsbD_eq_getElem]
  · split
    · simp [yField, show i - 4 < 4 by omega, show 4 + (i - 4) = i by omega, -BitVec.getLsbD_eq_getElem]
    · split
      · simp [xField, show i - 8 < 4 by omega, show 8 + (i - 8) = i by omega, -BitVec.getLsbD_eq_getElem]
      · simp [opField, show i - 12 < 4 by omega, show 12 + (i - 12) = i by omega, -BitVec.getLsbD_eq_getElem]

/-- Two bytes as one word, as a number (R52). -/
theorem bigEndian_toNat (hi lo : Byte) : (bigEndian hi lo).toNat = hi.toNat * 256 + lo.toNat := by
  have h := lo.isLt
  simp only [bigEndian, BitVec.toNat_append]
  rw [← Nat.shiftLeft_add_eq_or_of_lt h, Nat.shiftLeft_eq]

end Sys2Proof
end

