-- ==== Sys2Proof/Laws/Memory.lean ====
section
/-! SUPPORT. Memory: read after write, the canonical form and that every operation keeps it, and that canonical memories
with the same bytes are the same data. -/

namespace Sys2Proof.Machine.Memory

@[simp] theorem read_nil (a : Nat) : Memory.read [] a = Memory.unlisted := rfl

theorem read_cons (b : Nat) (u : Byte) (m : Memory) (a : Nat) :
    Memory.read ((b, u) :: m) a = if a = b then u else Memory.read m a := rfl

theorem wfFrom_cons {lo b : Nat} {u : Byte} {m : Memory} :
    Memory.wfFrom lo ((b, u) :: m) = true ↔
      lo ≤ b ∧ b < Config.memSize ∧ u ≠ Memory.unlisted ∧ Memory.wfFrom (b + 1) m = true := by
  simp [Memory.wfFrom, and_assoc]

/-- A later start is a weaker demand. -/
theorem wfFrom_mono {lo lo' : Nat} {m : Memory} (hle : lo' ≤ lo) (h : Memory.wfFrom lo m = true) :
    Memory.wfFrom lo' m = true := by
  cases m with
  | nil => rfl
  | cons c m =>
    obtain ⟨h1, h2, h3, h4⟩ := wfFrom_cons.mp h
    exact wfFrom_cons.mpr ⟨hle.trans h1, h2, h3, h4⟩

/-- Below its first address a canonical memory lists nothing. -/
theorem read_below {lo a : Nat} {m : Memory} (h : Memory.wfFrom lo m = true) (ha : a < lo) :
    Memory.read m a = Memory.unlisted := by
  induction m generalizing lo with
  | nil => rfl
  | cons c m ih =>
    obtain ⟨h1, -, -, h4⟩ := wfFrom_cons.mp h
    rw [read_cons, if_neg (by omega)]
    exact ih h4 (by omega)

/-- Read after write: the written byte there, every other byte as before, in canonical memories. -/
theorem read_write_from {lo : Nat} {m : Memory} (h : Memory.wfFrom lo m = true) (a : Nat) (v : Byte) (b : Nat) :
    Memory.read (Memory.write m a v) b = if b = a then v else Memory.read m b := by
  induction m generalizing lo with
  | nil =>
    simp only [Memory.write]
    split <;> simp_all [Memory.read]
  | cons c m ih =>
    obtain ⟨c, u⟩ := c
    obtain ⟨h1, h2, h3, h4⟩ := wfFrom_cons.mp h
    have below : ∀ d, d ≤ c → Memory.read m d = Memory.unlisted := fun d hd => read_below h4 (by omega)
    simp only [Memory.write]
    split
    · rename_i hac
      have ha := below a (by omega)
      split
      · rename_i hv
        by_cases hb : b = a
        · simp [hb, read_cons, hv, ha, show a ≠ c by omega]
        · simp [hb]
      · simp [read_cons]
    · split
      · rename_i hac
        have ha := below a (by omega)
        split
        · rename_i hv
          by_cases hb : b = a
          · simp [hb, hv, ha]
          · simp [hb, read_cons, show b ≠ c by omega]
        · by_cases hb : b = a <;> simp [hb, read_cons]
          intro hbc
          omega
      · rw [read_cons, read_cons, ih h4]
        by_cases hb : b = a
        · simp [hb, show a ≠ c by omega]
        · simp [hb]

theorem write_wfFrom {lo a : Nat} {m : Memory} {v : Byte} (h : Memory.wfFrom lo m = true) (hlo : lo ≤ a)
    (ha : a < Config.memSize) : Memory.wfFrom lo (Memory.write m a v) = true := by
  induction m generalizing lo with
  | nil =>
    simp only [Memory.write]
    split
    · rfl
    · rename_i hv
      exact wfFrom_cons.mpr ⟨hlo, ha, hv, rfl⟩
  | cons c m ih =>
    obtain ⟨c, u⟩ := c
    obtain ⟨h1, h2, h3, h4⟩ := wfFrom_cons.mp h
    simp only [Memory.write]
    split
    · rename_i hac
      split
      · exact h
      · rename_i hv
        exact wfFrom_cons.mpr ⟨hlo, ha, hv, wfFrom_cons.mpr ⟨by omega, h2, h3, h4⟩⟩
    · split
      · rename_i hac
        split
        · exact wfFrom_mono (by omega) h4
        · rename_i hv
          exact wfFrom_cons.mpr ⟨hlo, ha, hv, hac ▸ h4⟩
      · exact wfFrom_cons.mpr ⟨h1, h2, h3, ih h4 (by omega)⟩

/-- A write inside memory keeps the canonical form. -/
theorem write_wf {m : Memory} {a : Nat} {v : Byte} (h : m.wf = true) (ha : a < Config.memSize) :
    (m.write a v).wf = true :=
  write_wfFrom h (Nat.zero_le a) ha

/-- Read after write, in canonical memories. -/
theorem read_write {m : Memory} (h : m.wf = true) (a : Nat) (v : Byte) (b : Nat) :
    (m.write a v).read b = if b = a then v else m.read b :=
  read_write_from h a v b

@[simp] theorem writeBytes_nil (m : Memory) (a : Nat) : m.writeBytes a [] = m := rfl

theorem writeBytes_cons (m : Memory) (a : Nat) (v : Byte) (vs : List Byte) :
    m.writeBytes a (v :: vs) = (m.write a v).writeBytes (a + 1) vs := rfl

/-- Bytes written inside memory keep the canonical form. -/
theorem writeBytes_wf {vs : List Byte} {m : Memory} {a : Nat} (h : m.wf = true) (ha : a + vs.length ≤ Config.memSize) :
    (m.writeBytes a vs).wf = true := by
  induction vs generalizing m a with
  | nil => exact h
  | cons v vs ih =>
    simp only [List.length_cons] at ha
    exact ih (write_wf h (by omega)) (by omega)

/-- Bytes written from `a` read back in order; every byte outside them reads as before. -/
theorem read_writeBytes {vs : List Byte} {m : Memory} {a : Nat} (h : m.wf = true) (ha : a + vs.length ≤ Config.memSize)
    (b : Nat) :
    (m.writeBytes a vs).read b = if a ≤ b ∧ b < a + vs.length then vs.getD (b - a) Memory.unlisted else m.read b := by
  induction vs generalizing m a with
  | nil =>
    rw [if_neg (by simp only [List.length_nil]; omega)]
    rfl
  | cons v vs ih =>
    simp only [List.length_cons] at ha
    rw [writeBytes_cons, ih (write_wf h (by omega)) (by omega), read_write h]
    simp only [List.length_cons]
    by_cases hb : b = a
    · subst hb
      simp
    · by_cases hin : a + 1 ≤ b ∧ b < a + 1 + vs.length
      · rw [if_pos hin, if_pos (by omega), show b - a = (b - (a + 1)) + 1 by omega, List.getD_cons_succ]
      · rw [if_neg hin, if_neg hb, if_neg (by omega)]

/-- Canonical memories that read the same at every address are equal. -/
theorem ext_from {lo : Nat} {m m' : Memory} (h : Memory.wfFrom lo m = true) (h' : Memory.wfFrom lo m' = true)
    (heq : ∀ a, Memory.read m a = Memory.read m' a) : m = m' := by
  induction m generalizing lo m' with
  | nil =>
    cases m' with
    | nil => rfl
    | cons c' m' =>
      obtain ⟨-, -, h3, -⟩ := wfFrom_cons.mp h'
      have := heq c'.1
      rw [read_nil, show c' = (c'.1, c'.2) from rfl, read_cons, if_pos rfl] at this
      exact absurd this.symm h3
  | cons c m ih =>
    obtain ⟨c, u⟩ := c
    obtain ⟨h1, h2, h3, h4⟩ := wfFrom_cons.mp h
    cases m' with
    | nil =>
      have := heq c
      rw [read_nil, read_cons, if_pos rfl] at this
      exact absurd this h3
    | cons c' m' =>
      obtain ⟨c', u'⟩ := c'
      obtain ⟨h1', h2', h3', h4'⟩ := wfFrom_cons.mp h'
      have hc : c = c' := by
        rcases Nat.lt_trichotomy c c' with hlt | heq' | hgt
        · have := heq c
          rw [read_cons, if_pos rfl, read_cons, if_neg (by omega), read_below h4' (by omega)] at this
          exact absurd this h3
        · exact heq'
        · have := heq c'
          rw [read_cons, if_neg (by omega), read_below h4 (by omega), read_cons, if_pos rfl] at this
          exact absurd this.symm h3'
      subst hc
      have hu : u = u' := by simpa [read_cons] using heq c
      subst hu
      congr 1
      refine ih h4 h4' fun a => ?_
      by_cases ha : a ≤ c
      · rw [read_below h4 (by omega), read_below h4' (by omega)]
      · simpa [read_cons, show a ≠ c by omega] using heq a

end Sys2Proof.Machine.Memory
end

