-- ==== Sys2Proof/Laws/State.lean ====
section
/-! SUPPORT. One lemma per field per update of the state, so that no proof unfolds a record update. -/

namespace Sys2Proof.Machine.State

variable (s : State)

@[simp] theorem setReg_V (x : RegNum) (v : Byte) : (s.setReg x v).V = s.V.set x.toNat v x.isLt := rfl
@[simp] theorem setReg_I (x : RegNum) (v : Byte) : (s.setReg x v).I = s.I := rfl
@[simp] theorem setReg_pc (x : RegNum) (v : Byte) : (s.setReg x v).pc = s.pc := rfl
@[simp] theorem setReg_stack (x : RegNum) (v : Byte) : (s.setReg x v).stack = s.stack := rfl
@[simp] theorem setReg_SP (x : RegNum) (v : Byte) : (s.setReg x v).SP = s.SP := rfl
@[simp] theorem setReg_DT (x : RegNum) (v : Byte) : (s.setReg x v).DT = s.DT := rfl
@[simp] theorem setReg_ST (x : RegNum) (v : Byte) : (s.setReg x v).ST = s.ST := rfl
@[simp] theorem setReg_mem (x : RegNum) (v : Byte) : (s.setReg x v).mem = s.mem := rfl
@[simp] theorem setReg_disp (x : RegNum) (v : Byte) : (s.setReg x v).disp = s.disp := rfl
@[simp] theorem setReg_key (x : RegNum) (v : Byte) : (s.setReg x v).key = s.key := rfl
@[simp] theorem setReg_drawPending (x : RegNum) (v : Byte) : (s.setReg x v).drawPending = s.drawPending := rfl
@[simp] theorem setReg_status (x : RegNum) (v : Byte) : (s.setReg x v).status = s.status := rfl
@[simp] theorem setReg_out (x : RegNum) (v : Byte) : (s.setReg x v).out = s.out := rfl
@[simp] theorem setReg_env (x : RegNum) (v : Byte) : (s.setReg x v).env = s.env := rfl

@[simp] theorem setRegFlag_V (x : RegNum) (r f : Byte) : (s.setRegFlag x r f).V = (s.V.set x.toNat r x.isLt).set flagReg.toNat f flagReg.isLt := rfl
@[simp] theorem setRegFlag_I (x : RegNum) (r f : Byte) : (s.setRegFlag x r f).I = s.I := rfl
@[simp] theorem setRegFlag_pc (x : RegNum) (r f : Byte) : (s.setRegFlag x r f).pc = s.pc := rfl
@[simp] theorem setRegFlag_stack (x : RegNum) (r f : Byte) : (s.setRegFlag x r f).stack = s.stack := rfl
@[simp] theorem setRegFlag_SP (x : RegNum) (r f : Byte) : (s.setRegFlag x r f).SP = s.SP := rfl
@[simp] theorem setRegFlag_DT (x : RegNum) (r f : Byte) : (s.setRegFlag x r f).DT = s.DT := rfl
@[simp] theorem setRegFlag_ST (x : RegNum) (r f : Byte) : (s.setRegFlag x r f).ST = s.ST := rfl
@[simp] theorem setRegFlag_mem (x : RegNum) (r f : Byte) : (s.setRegFlag x r f).mem = s.mem := rfl
@[simp] theorem setRegFlag_disp (x : RegNum) (r f : Byte) : (s.setRegFlag x r f).disp = s.disp := rfl
@[simp] theorem setRegFlag_key (x : RegNum) (r f : Byte) : (s.setRegFlag x r f).key = s.key := rfl
@[simp] theorem setRegFlag_drawPending (x : RegNum) (r f : Byte) : (s.setRegFlag x r f).drawPending = s.drawPending := rfl
@[simp] theorem setRegFlag_status (x : RegNum) (r f : Byte) : (s.setRegFlag x r f).status = s.status := rfl
@[simp] theorem setRegFlag_out (x : RegNum) (r f : Byte) : (s.setRegFlag x r f).out = s.out := rfl
@[simp] theorem setRegFlag_env (x : RegNum) (r f : Byte) : (s.setRegFlag x r f).env = s.env := rfl

@[simp] theorem setI_V (a : Word) : (s.setI a).V = s.V := rfl
@[simp] theorem setI_I (a : Word) : (s.setI a).I = a := rfl
@[simp] theorem setI_pc (a : Word) : (s.setI a).pc = s.pc := rfl
@[simp] theorem setI_stack (a : Word) : (s.setI a).stack = s.stack := rfl
@[simp] theorem setI_SP (a : Word) : (s.setI a).SP = s.SP := rfl
@[simp] theorem setI_DT (a : Word) : (s.setI a).DT = s.DT := rfl
@[simp] theorem setI_ST (a : Word) : (s.setI a).ST = s.ST := rfl
@[simp] theorem setI_mem (a : Word) : (s.setI a).mem = s.mem := rfl
@[simp] theorem setI_disp (a : Word) : (s.setI a).disp = s.disp := rfl
@[simp] theorem setI_key (a : Word) : (s.setI a).key = s.key := rfl
@[simp] theorem setI_drawPending (a : Word) : (s.setI a).drawPending = s.drawPending := rfl
@[simp] theorem setI_status (a : Word) : (s.setI a).status = s.status := rfl
@[simp] theorem setI_out (a : Word) : (s.setI a).out = s.out := rfl
@[simp] theorem setI_env (a : Word) : (s.setI a).env = s.env := rfl

@[simp] theorem setDT_V (v : Byte) : (s.setDT v).V = s.V := rfl
@[simp] theorem setDT_I (v : Byte) : (s.setDT v).I = s.I := rfl
@[simp] theorem setDT_pc (v : Byte) : (s.setDT v).pc = s.pc := rfl
@[simp] theorem setDT_stack (v : Byte) : (s.setDT v).stack = s.stack := rfl
@[simp] theorem setDT_SP (v : Byte) : (s.setDT v).SP = s.SP := rfl
@[simp] theorem setDT_DT (v : Byte) : (s.setDT v).DT = v := rfl
@[simp] theorem setDT_ST (v : Byte) : (s.setDT v).ST = s.ST := rfl
@[simp] theorem setDT_mem (v : Byte) : (s.setDT v).mem = s.mem := rfl
@[simp] theorem setDT_disp (v : Byte) : (s.setDT v).disp = s.disp := rfl
@[simp] theorem setDT_key (v : Byte) : (s.setDT v).key = s.key := rfl
@[simp] theorem setDT_drawPending (v : Byte) : (s.setDT v).drawPending = s.drawPending := rfl
@[simp] theorem setDT_status (v : Byte) : (s.setDT v).status = s.status := rfl
@[simp] theorem setDT_out (v : Byte) : (s.setDT v).out = s.out := rfl
@[simp] theorem setDT_env (v : Byte) : (s.setDT v).env = s.env := rfl

@[simp] theorem setST_V (v : Byte) : (s.setST v).V = s.V := rfl
@[simp] theorem setST_I (v : Byte) : (s.setST v).I = s.I := rfl
@[simp] theorem setST_pc (v : Byte) : (s.setST v).pc = s.pc := rfl
@[simp] theorem setST_stack (v : Byte) : (s.setST v).stack = s.stack := rfl
@[simp] theorem setST_SP (v : Byte) : (s.setST v).SP = s.SP := rfl
@[simp] theorem setST_DT (v : Byte) : (s.setST v).DT = s.DT := rfl
@[simp] theorem setST_ST (v : Byte) : (s.setST v).ST = v := rfl
@[simp] theorem setST_mem (v : Byte) : (s.setST v).mem = s.mem := rfl
@[simp] theorem setST_disp (v : Byte) : (s.setST v).disp = s.disp := rfl
@[simp] theorem setST_key (v : Byte) : (s.setST v).key = s.key := rfl
@[simp] theorem setST_drawPending (v : Byte) : (s.setST v).drawPending = s.drawPending := rfl
@[simp] theorem setST_status (v : Byte) : (s.setST v).status = s.status := rfl
@[simp] theorem setST_out (v : Byte) : (s.setST v).out = s.out := rfl
@[simp] theorem setST_env (v : Byte) : (s.setST v).env = s.env := rfl

@[simp] theorem setMem_V (m : Memory) : (s.setMem m).V = s.V := rfl
@[simp] theorem setMem_I (m : Memory) : (s.setMem m).I = s.I := rfl
@[simp] theorem setMem_pc (m : Memory) : (s.setMem m).pc = s.pc := rfl
@[simp] theorem setMem_stack (m : Memory) : (s.setMem m).stack = s.stack := rfl
@[simp] theorem setMem_SP (m : Memory) : (s.setMem m).SP = s.SP := rfl
@[simp] theorem setMem_DT (m : Memory) : (s.setMem m).DT = s.DT := rfl
@[simp] theorem setMem_ST (m : Memory) : (s.setMem m).ST = s.ST := rfl
@[simp] theorem setMem_mem (m : Memory) : (s.setMem m).mem = m := rfl
@[simp] theorem setMem_disp (m : Memory) : (s.setMem m).disp = s.disp := rfl
@[simp] theorem setMem_key (m : Memory) : (s.setMem m).key = s.key := rfl
@[simp] theorem setMem_drawPending (m : Memory) : (s.setMem m).drawPending = s.drawPending := rfl
@[simp] theorem setMem_status (m : Memory) : (s.setMem m).status = s.status := rfl
@[simp] theorem setMem_out (m : Memory) : (s.setMem m).out = s.out := rfl
@[simp] theorem setMem_env (m : Memory) : (s.setMem m).env = s.env := rfl

@[simp] theorem setStatus_V (st : Status) : (s.setStatus st).V = s.V := rfl
@[simp] theorem setStatus_I (st : Status) : (s.setStatus st).I = s.I := rfl
@[simp] theorem setStatus_pc (st : Status) : (s.setStatus st).pc = s.pc := rfl
@[simp] theorem setStatus_stack (st : Status) : (s.setStatus st).stack = s.stack := rfl
@[simp] theorem setStatus_SP (st : Status) : (s.setStatus st).SP = s.SP := rfl
@[simp] theorem setStatus_DT (st : Status) : (s.setStatus st).DT = s.DT := rfl
@[simp] theorem setStatus_ST (st : Status) : (s.setStatus st).ST = s.ST := rfl
@[simp] theorem setStatus_mem (st : Status) : (s.setStatus st).mem = s.mem := rfl
@[simp] theorem setStatus_disp (st : Status) : (s.setStatus st).disp = s.disp := rfl
@[simp] theorem setStatus_key (st : Status) : (s.setStatus st).key = s.key := rfl
@[simp] theorem setStatus_drawPending (st : Status) : (s.setStatus st).drawPending = s.drawPending := rfl
@[simp] theorem setStatus_status (st : Status) : (s.setStatus st).status = st := rfl
@[simp] theorem setStatus_out (st : Status) : (s.setStatus st).out = s.out := rfl
@[simp] theorem setStatus_env (st : Status) : (s.setStatus st).env = s.env := rfl

@[simp] theorem setPc_V (a : Word) : (s.setPc a).V = s.V := rfl
@[simp] theorem setPc_I (a : Word) : (s.setPc a).I = s.I := rfl
@[simp] theorem setPc_pc (a : Word) : (s.setPc a).pc = a := rfl
@[simp] theorem setPc_stack (a : Word) : (s.setPc a).stack = s.stack := rfl
@[simp] theorem setPc_SP (a : Word) : (s.setPc a).SP = s.SP := rfl
@[simp] theorem setPc_DT (a : Word) : (s.setPc a).DT = s.DT := rfl
@[simp] theorem setPc_ST (a : Word) : (s.setPc a).ST = s.ST := rfl
@[simp] theorem setPc_mem (a : Word) : (s.setPc a).mem = s.mem := rfl
@[simp] theorem setPc_disp (a : Word) : (s.setPc a).disp = s.disp := rfl
@[simp] theorem setPc_key (a : Word) : (s.setPc a).key = s.key := rfl
@[simp] theorem setPc_drawPending (a : Word) : (s.setPc a).drawPending = s.drawPending := rfl
@[simp] theorem setPc_status (a : Word) : (s.setPc a).status = s.status := rfl
@[simp] theorem setPc_out (a : Word) : (s.setPc a).out = s.out := rfl
@[simp] theorem setPc_env (a : Word) : (s.setPc a).env = s.env := rfl

@[simp] theorem advance_V : (s.advance).V = s.V := rfl
@[simp] theorem advance_I : (s.advance).I = s.I := rfl
@[simp] theorem advance_pc : (s.advance).pc = s.pc + 2 := rfl
@[simp] theorem advance_stack : (s.advance).stack = s.stack := rfl
@[simp] theorem advance_SP : (s.advance).SP = s.SP := rfl
@[simp] theorem advance_DT : (s.advance).DT = s.DT := rfl
@[simp] theorem advance_ST : (s.advance).ST = s.ST := rfl
@[simp] theorem advance_mem : (s.advance).mem = s.mem := rfl
@[simp] theorem advance_disp : (s.advance).disp = s.disp := rfl
@[simp] theorem advance_key : (s.advance).key = s.key := rfl
@[simp] theorem advance_drawPending : (s.advance).drawPending = s.drawPending := rfl
@[simp] theorem advance_status : (s.advance).status = s.status := rfl
@[simp] theorem advance_out : (s.advance).out = s.out := rfl
@[simp] theorem advance_env : (s.advance).env = s.env := rfl

@[simp] theorem skipIf_V (c : Bool) : (s.skipIf c).V = s.V := rfl
@[simp] theorem skipIf_I (c : Bool) : (s.skipIf c).I = s.I := rfl
@[simp] theorem skipIf_pc (c : Bool) : (s.skipIf c).pc = if c then s.pc + 4 else s.pc + 2 := rfl
@[simp] theorem skipIf_stack (c : Bool) : (s.skipIf c).stack = s.stack := rfl
@[simp] theorem skipIf_SP (c : Bool) : (s.skipIf c).SP = s.SP := rfl
@[simp] theorem skipIf_DT (c : Bool) : (s.skipIf c).DT = s.DT := rfl
@[simp] theorem skipIf_ST (c : Bool) : (s.skipIf c).ST = s.ST := rfl
@[simp] theorem skipIf_mem (c : Bool) : (s.skipIf c).mem = s.mem := rfl
@[simp] theorem skipIf_disp (c : Bool) : (s.skipIf c).disp = s.disp := rfl
@[simp] theorem skipIf_key (c : Bool) : (s.skipIf c).key = s.key := rfl
@[simp] theorem skipIf_drawPending (c : Bool) : (s.skipIf c).drawPending = s.drawPending := rfl
@[simp] theorem skipIf_status (c : Bool) : (s.skipIf c).status = s.status := rfl
@[simp] theorem skipIf_out (c : Bool) : (s.skipIf c).out = s.out := rfl
@[simp] theorem skipIf_env (c : Bool) : (s.skipIf c).env = s.env := rfl

@[simp] theorem enterFatal_V (c : FatalCause) : (s.enterFatal c).V = s.V := rfl
@[simp] theorem enterFatal_I (c : FatalCause) : (s.enterFatal c).I = s.I := rfl
@[simp] theorem enterFatal_pc (c : FatalCause) : (s.enterFatal c).pc = s.pc := rfl
@[simp] theorem enterFatal_stack (c : FatalCause) : (s.enterFatal c).stack = s.stack := rfl
@[simp] theorem enterFatal_SP (c : FatalCause) : (s.enterFatal c).SP = s.SP := rfl
@[simp] theorem enterFatal_DT (c : FatalCause) : (s.enterFatal c).DT = s.DT := rfl
@[simp] theorem enterFatal_ST (c : FatalCause) : (s.enterFatal c).ST = s.ST := rfl
@[simp] theorem enterFatal_mem (c : FatalCause) : (s.enterFatal c).mem = s.mem := rfl
@[simp] theorem enterFatal_disp (c : FatalCause) : (s.enterFatal c).disp = s.disp := rfl
@[simp] theorem enterFatal_key (c : FatalCause) : (s.enterFatal c).key = s.key := rfl
@[simp] theorem enterFatal_drawPending (c : FatalCause) : (s.enterFatal c).drawPending = s.drawPending := rfl
@[simp] theorem enterFatal_status (c : FatalCause) : (s.enterFatal c).status = .halted c := rfl
@[simp] theorem enterFatal_out (c : FatalCause) : (s.enterFatal c).out = { s.out with fatal := some c } := rfl
@[simp] theorem enterFatal_env (c : FatalCause) : (s.enterFatal c).env = s.env := rfl

@[simp] theorem push_V (a : Word) (h : s.SP.val < Config.stackDepth) : (s.push a h).V = s.V := rfl
@[simp] theorem push_I (a : Word) (h : s.SP.val < Config.stackDepth) : (s.push a h).I = s.I := rfl
@[simp] theorem push_pc (a : Word) (h : s.SP.val < Config.stackDepth) : (s.push a h).pc = s.pc := rfl
@[simp] theorem push_stack (a : Word) (h : s.SP.val < Config.stackDepth) : (s.push a h).stack = s.stack.set s.SP.val a h := rfl
@[simp] theorem push_SP (a : Word) (h : s.SP.val < Config.stackDepth) : (s.push a h).SP = ⟨s.SP.val + 1, Nat.succ_lt_succ h⟩ := rfl
@[simp] theorem push_DT (a : Word) (h : s.SP.val < Config.stackDepth) : (s.push a h).DT = s.DT := rfl
@[simp] theorem push_ST (a : Word) (h : s.SP.val < Config.stackDepth) : (s.push a h).ST = s.ST := rfl
@[simp] theorem push_mem (a : Word) (h : s.SP.val < Config.stackDepth) : (s.push a h).mem = s.mem := rfl
@[simp] theorem push_disp (a : Word) (h : s.SP.val < Config.stackDepth) : (s.push a h).disp = s.disp := rfl
@[simp] theorem push_key (a : Word) (h : s.SP.val < Config.stackDepth) : (s.push a h).key = s.key := rfl
@[simp] theorem push_drawPending (a : Word) (h : s.SP.val < Config.stackDepth) : (s.push a h).drawPending = s.drawPending := rfl
@[simp] theorem push_status (a : Word) (h : s.SP.val < Config.stackDepth) : (s.push a h).status = s.status := rfl
@[simp] theorem push_out (a : Word) (h : s.SP.val < Config.stackDepth) : (s.push a h).out = s.out := rfl
@[simp] theorem push_env (a : Word) (h : s.SP.val < Config.stackDepth) : (s.push a h).env = s.env := rfl

@[simp] theorem pop_V : (s.pop).V = s.V := rfl
@[simp] theorem pop_I : (s.pop).I = s.I := rfl
@[simp] theorem pop_pc : (s.pop).pc = s.pc := rfl
@[simp] theorem pop_stack : (s.pop).stack = s.stack := rfl
@[simp] theorem pop_SP : (s.pop).SP = ⟨s.SP.val - 1, by have := s.SP.isLt; omega⟩ := rfl
@[simp] theorem pop_DT : (s.pop).DT = s.DT := rfl
@[simp] theorem pop_ST : (s.pop).ST = s.ST := rfl
@[simp] theorem pop_mem : (s.pop).mem = s.mem := rfl
@[simp] theorem pop_disp : (s.pop).disp = s.disp := rfl
@[simp] theorem pop_key : (s.pop).key = s.key := rfl
@[simp] theorem pop_drawPending : (s.pop).drawPending = s.drawPending := rfl
@[simp] theorem pop_status : (s.pop).status = s.status := rfl
@[simp] theorem pop_out : (s.pop).out = s.out := rfl
@[simp] theorem pop_env : (s.pop).env = s.env := rfl

@[simp] theorem setDisp_V (d : Display) : (s.setDisp d).V = s.V := rfl
@[simp] theorem setDisp_I (d : Display) : (s.setDisp d).I = s.I := rfl
@[simp] theorem setDisp_pc (d : Display) : (s.setDisp d).pc = s.pc := rfl
@[simp] theorem setDisp_stack (d : Display) : (s.setDisp d).stack = s.stack := rfl
@[simp] theorem setDisp_SP (d : Display) : (s.setDisp d).SP = s.SP := rfl
@[simp] theorem setDisp_DT (d : Display) : (s.setDisp d).DT = s.DT := rfl
@[simp] theorem setDisp_ST (d : Display) : (s.setDisp d).ST = s.ST := rfl
@[simp] theorem setDisp_mem (d : Display) : (s.setDisp d).mem = s.mem := rfl
@[simp] theorem setDisp_disp (d : Display) : (s.setDisp d).disp = d := rfl
@[simp] theorem setDisp_key (d : Display) : (s.setDisp d).key = s.key := rfl
@[simp] theorem setDisp_drawPending (d : Display) : (s.setDisp d).drawPending = true := rfl
@[simp] theorem setDisp_status (d : Display) : (s.setDisp d).status = s.status := rfl
@[simp] theorem setDisp_out (d : Display) : (s.setDisp d).out = s.out := rfl
@[simp] theorem setDisp_env (d : Display) : (s.setDisp d).env = s.env := rfl

@[simp] theorem beginStep_V : (s.beginStep).V = s.V := rfl
@[simp] theorem beginStep_I : (s.beginStep).I = s.I := rfl
@[simp] theorem beginStep_pc : (s.beginStep).pc = s.pc := rfl
@[simp] theorem beginStep_stack : (s.beginStep).stack = s.stack := rfl
@[simp] theorem beginStep_SP : (s.beginStep).SP = s.SP := rfl
@[simp] theorem beginStep_DT : (s.beginStep).DT = s.DT := rfl
@[simp] theorem beginStep_ST : (s.beginStep).ST = s.ST := rfl
@[simp] theorem beginStep_mem : (s.beginStep).mem = s.mem := rfl
@[simp] theorem beginStep_disp : (s.beginStep).disp = s.disp := rfl
@[simp] theorem beginStep_key : (s.beginStep).key = s.key := rfl
@[simp] theorem beginStep_drawPending : (s.beginStep).drawPending = s.drawPending := rfl
@[simp] theorem beginStep_status : (s.beginStep).status = s.status := rfl
@[simp] theorem beginStep_out : (s.beginStep).out = { beep := false, unknown := none, fatal := none } := rfl
@[simp] theorem beginStep_env : (s.beginStep).env = s.env := rfl

@[simp] theorem endStep_V : (s.endStep).V = s.V := rfl
@[simp] theorem endStep_I : (s.endStep).I = s.I := rfl
@[simp] theorem endStep_pc : (s.endStep).pc = s.pc := rfl
@[simp] theorem endStep_stack : (s.endStep).stack = s.stack := rfl
@[simp] theorem endStep_SP : (s.endStep).SP = s.SP := rfl
@[simp] theorem endStep_DT : (s.endStep).DT = s.DT := rfl
@[simp] theorem endStep_ST : (s.endStep).ST = s.ST := rfl
@[simp] theorem endStep_mem : (s.endStep).mem = s.mem := rfl
@[simp] theorem endStep_disp : (s.endStep).disp = s.disp := rfl
@[simp] theorem endStep_key : (s.endStep).key = s.key := rfl
@[simp] theorem endStep_drawPending : (s.endStep).drawPending = s.drawPending := rfl
@[simp] theorem endStep_status : (s.endStep).status = s.status := rfl
@[simp] theorem endStep_out : (s.endStep).out = s.out := rfl
@[simp] theorem endStep_env : (s.endStep).env = s.env.advance := rfl

@[simp] theorem withInput_V (i : StepInput) : (s.withInput i).V = s.V := rfl
@[simp] theorem withInput_I (i : StepInput) : (s.withInput i).I = s.I := rfl
@[simp] theorem withInput_pc (i : StepInput) : (s.withInput i).pc = s.pc := rfl
@[simp] theorem withInput_stack (i : StepInput) : (s.withInput i).stack = s.stack := rfl
@[simp] theorem withInput_SP (i : StepInput) : (s.withInput i).SP = s.SP := rfl
@[simp] theorem withInput_DT (i : StepInput) : (s.withInput i).DT = s.DT := rfl
@[simp] theorem withInput_ST (i : StepInput) : (s.withInput i).ST = s.ST := rfl
@[simp] theorem withInput_mem (i : StepInput) : (s.withInput i).mem = s.mem := rfl
@[simp] theorem withInput_disp (i : StepInput) : (s.withInput i).disp = s.disp := rfl
@[simp] theorem withInput_key (i : StepInput) : (s.withInput i).key = s.key := rfl
@[simp] theorem withInput_drawPending (i : StepInput) : (s.withInput i).drawPending = s.drawPending := rfl
@[simp] theorem withInput_status (i : StepInput) : (s.withInput i).status = s.status := rfl
@[simp] theorem withInput_out (i : StepInput) : (s.withInput i).out = s.out := rfl
@[simp] theorem withInput_env (i : StepInput) : (s.withInput i).env = { s.env with inputs := i :: s.env.inputs } := rfl

@[simp] theorem reportUnknown_V (w : Word) : (s.reportUnknown w).V = s.V := rfl
@[simp] theorem reportUnknown_I (w : Word) : (s.reportUnknown w).I = s.I := rfl
@[simp] theorem reportUnknown_pc (w : Word) : (s.reportUnknown w).pc = s.pc + 2 := rfl
@[simp] theorem reportUnknown_stack (w : Word) : (s.reportUnknown w).stack = s.stack := rfl
@[simp] theorem reportUnknown_SP (w : Word) : (s.reportUnknown w).SP = s.SP := rfl
@[simp] theorem reportUnknown_DT (w : Word) : (s.reportUnknown w).DT = s.DT := rfl
@[simp] theorem reportUnknown_ST (w : Word) : (s.reportUnknown w).ST = s.ST := rfl
@[simp] theorem reportUnknown_mem (w : Word) : (s.reportUnknown w).mem = s.mem := rfl
@[simp] theorem reportUnknown_disp (w : Word) : (s.reportUnknown w).disp = s.disp := rfl
@[simp] theorem reportUnknown_key (w : Word) : (s.reportUnknown w).key = s.key := rfl
@[simp] theorem reportUnknown_drawPending (w : Word) : (s.reportUnknown w).drawPending = s.drawPending := rfl
@[simp] theorem reportUnknown_status (w : Word) : (s.reportUnknown w).status = s.status := rfl
@[simp] theorem reportUnknown_out (w : Word) : (s.reportUnknown w).out = { s.out with unknown := some w } := rfl
@[simp] theorem reportUnknown_env (w : Word) : (s.reportUnknown w).env = s.env := rfl

@[simp] theorem tick_V : (s.tick).V = s.V := rfl
@[simp] theorem tick_I : (s.tick).I = s.I := rfl
@[simp] theorem tick_pc : (s.tick).pc = s.pc := rfl
@[simp] theorem tick_stack : (s.tick).stack = s.stack := rfl
@[simp] theorem tick_SP : (s.tick).SP = s.SP := rfl
@[simp] theorem tick_DT : (s.tick).DT = tickDown s.DT := rfl
@[simp] theorem tick_ST : (s.tick).ST = tickDown s.ST := rfl
@[simp] theorem tick_mem : (s.tick).mem = s.mem := rfl
@[simp] theorem tick_disp : (s.tick).disp = s.disp := rfl
@[simp] theorem tick_key : (s.tick).key = s.key := rfl
@[simp] theorem tick_drawPending : (s.tick).drawPending = s.drawPending := rfl
@[simp] theorem tick_status : (s.tick).status = s.status := rfl
@[simp] theorem tick_out : (s.tick).out = { s.out with beep := if s.ST = 1 then true else s.out.beep } := rfl
@[simp] theorem tick_env : (s.tick).env = s.env := rfl

/-! Reset: every part of the core at its reset value, the supply of inputs kept. -/

@[simp] theorem resetCore_V : s.resetCore.V = State.reset.V := rfl
@[simp] theorem resetCore_I : s.resetCore.I = State.reset.I := rfl
@[simp] theorem resetCore_pc : s.resetCore.pc = State.reset.pc := rfl
@[simp] theorem resetCore_stack : s.resetCore.stack = State.reset.stack := rfl
@[simp] theorem resetCore_SP : s.resetCore.SP = State.reset.SP := rfl
@[simp] theorem resetCore_DT : s.resetCore.DT = State.reset.DT := rfl
@[simp] theorem resetCore_ST : s.resetCore.ST = State.reset.ST := rfl
@[simp] theorem resetCore_mem : s.resetCore.mem = State.reset.mem := rfl
@[simp] theorem resetCore_disp : s.resetCore.disp = State.reset.disp := rfl
@[simp] theorem resetCore_key : s.resetCore.key = State.reset.key := rfl
@[simp] theorem resetCore_drawPending : s.resetCore.drawPending = State.reset.drawPending := rfl
@[simp] theorem resetCore_status : s.resetCore.status = State.reset.status := rfl
@[simp] theorem resetCore_out : s.resetCore.out = State.reset.out := rfl
@[simp] theorem resetCore_env : s.resetCore.env = s.env := rfl

end Sys2Proof.Machine.State
end

