-- ==== Sys2Proof/Laws/Ops.lean ====
section
/-! SUPPORT. One lemma per shared operation: registers, the register loops of Fx55 and Fx65, the access check, the flags,
the tick, and how an instruction ends. -/

namespace Sys2Proof.Machine

/-! ### Registers -/

theorem State.reg_eq_of_V {s t : State} (h : t.V = s.V) (x : RegNum) : t.reg x = s.reg x := by
  simp only [State.reg, h]

@[simp] theorem State.reg_setReg (s : State) (x : RegNum) (v : Byte) (y : RegNum) :
    (s.setReg x v).reg y = if y = x then v else s.reg y := by
  simp only [State.reg, State.setReg_V, Vector.getElem_set, BitVec.toNat_inj, eq_comm (a := x)]

/-- The flag is the last write: VF holds it even where the result goes to VF too (R22). -/
@[simp] theorem State.reg_setRegFlag (s : State) (x : RegNum) (r f : Byte) (y : RegNum) :
    (s.setRegFlag x r f).reg y = if y = flagReg then f else if y = x then r else s.reg y := by
  simp [State.setRegFlag]

@[simp] theorem State.reg_setI (s : State) (a : Word) (y : RegNum) : (s.setI a).reg y = s.reg y := rfl
@[simp] theorem State.reg_setPc (s : State) (a : Word) (y : RegNum) : (s.setPc a).reg y = s.reg y := rfl
@[simp] theorem State.reg_advance (s : State) (y : RegNum) : s.advance.reg y = s.reg y := rfl
@[simp] theorem State.reg_skipIf (s : State) (c : Bool) (y : RegNum) : (s.skipIf c).reg y = s.reg y := rfl
@[simp] theorem State.reg_setDT (s : State) (v : Byte) (y : RegNum) : (s.setDT v).reg y = s.reg y := rfl
@[simp] theorem State.reg_setST (s : State) (v : Byte) (y : RegNum) : (s.setST v).reg y = s.reg y := rfl
@[simp] theorem State.reg_setMem (s : State) (m : Memory) (y : RegNum) : (s.setMem m).reg y = s.reg y := rfl
@[simp] theorem State.reg_setDisp (s : State) (d : Display) (y : RegNum) : (s.setDisp d).reg y = s.reg y := rfl
@[simp] theorem State.reg_setStatus (s : State) (st : Status) (y : RegNum) : (s.setStatus st).reg y = s.reg y := rfl
@[simp] theorem State.reg_enterFatal (s : State) (c : FatalCause) (y : RegNum) : (s.enterFatal c).reg y = s.reg y := rfl
@[simp] theorem State.reg_tick (s : State) (y : RegNum) : s.tick.reg y = s.reg y := rfl
@[simp] theorem State.reg_beginStep (s : State) (y : RegNum) : s.beginStep.reg y = s.reg y := rfl
@[simp] theorem State.reg_endStep (s : State) (y : RegNum) : s.endStep.reg y = s.reg y := rfl

/-- Two register files that read the same are the same. -/
theorem State.V_ext {s t : State} (h : ∀ x, t.reg x = s.reg x) : t.V = s.V := by
  apply Vector.ext
  intro i hi
  have hx : (BitVec.ofNat 4 i).toNat = i := by simp; omega
  have := h (BitVec.ofNat 4 i)
  simp only [State.reg, hx] at this
  exact this

/-! ### The register loops -/

@[simp] theorem State.regsUpTo_length (s : State) (x : RegNum) : (s.regsUpTo x).length = x.toNat + 1 := by
  simp [State.regsUpTo]

/-- Byte k of what Fx55 stores is V[k] (R174). -/
theorem State.regsUpTo_getD (s : State) (x : RegNum) (k : Nat) (hk : k ≤ x.toNat) (d : Byte) :
    (s.regsUpTo x).getD k d = s.reg (BitVec.ofNat 4 k) := by
  simp [State.regsUpTo, List.getD_eq_getElem?_getD, Nat.lt_succ_of_le hk]

/-- The load loop, some way on: V0..V(j−1) hold their bytes, nothing else has changed. -/
theorem loadLoop_spec (f : Nat → Byte) (s : State) (j : Nat) (hj : j ≤ 16) :
    ∃ t, (List.range j).foldl (fun t i => State.setReg t (BitVec.ofNat 4 i) (f i)) s = t ∧
      t = { s with V := t.V } ∧ ∀ y : RegNum, t.reg y = if y.toNat < j then f y.toNat else s.reg y := by
  induction j with
  | zero => exact ⟨s, rfl, rfl, fun y => by simp⟩
  | succ j ih =>
    obtain ⟨t, ht, hfr, hreg⟩ := ih (by omega)
    refine ⟨t.setReg (BitVec.ofNat 4 j) (f j), by rw [List.range_succ, List.foldl_append, ht]; rfl, ?_, fun y => ?_⟩
    · rw [hfr]
      rfl
    · have hy : (y = BitVec.ofNat 4 j) ↔ y.toNat = j := by
        rw [← BitVec.toNat_inj, BitVec.toNat_ofNat, Nat.mod_eq_of_lt (by omega)]
      rw [State.reg_setReg, hreg]
      by_cases h : y.toNat = j
      · simp [hy, h]
      · simp only [hy, h, if_false, show (y.toNat < j + 1) = (y.toNat < j) from propext (by omega)]

/-- Fx65: V0..Vx hold the bytes at I, I + 1, …; the other registers and everything else are as before (R175). -/
theorem State.loadRegsUpTo_spec (s : State) (x : RegNum) :
    s.loadRegsUpTo x = { s with V := (s.loadRegsUpTo x).V } ∧
      ∀ y : RegNum, (s.loadRegsUpTo x).reg y =
        if y.toNat ≤ x.toNat then s.mem.read (s.I.toNat + y.toNat) else s.reg y := by
  obtain ⟨t, ht, hfr, hreg⟩ :=
    loadLoop_spec (fun i => s.mem.read (s.dataAddr + i)) s (x.toNat + 1) (by have := x.isLt; omega)
  have ht' : s.loadRegsUpTo x = t := ht
  rw [ht']
  exact ⟨hfr, fun y => by simp only [hreg y, Nat.lt_succ_iff, State.dataAddr]⟩

/-! ### Addresses and bounds -/

theorem inMemory_iff {base count : Nat} : inMemory base count = true ↔ count = 0 ∨ base + count - 1 ≤ 0xFFF := by
  simp [inMemory]

theorem State.accessOk_iff {s : State} {count : Nat} :
    s.accessOk count = true ↔ count = 0 ∨ s.I.toNat + count - 1 ≤ 0xFFF := inMemory_iff

theorem isDigit_iff {v : Byte} : isDigit v = true ↔ v.toNat ≤ 0xF := by simp [isDigit]

@[simp] theorem addrImm_toNat (nnn : Imm12) : (addrImm nnn).toNat = nnn.toNat := by
  simp only [addrImm, BitVec.toNat_setWidth]
  have := nnn.isLt
  omega

@[simp] theorem zextReg_toNat (v : Byte) : (zextReg v).toNat = v.toNat := by
  simp only [zextReg, BitVec.toNat_setWidth]
  have := v.isLt
  omega

/-- The target of Bnnn is the sum itself: it never wraps (R25, R128). -/
@[simp] theorem State.indexedTarget_toNat (s : State) (nnn : Imm12) :
    (s.indexedTarget nnn).toNat = (s.reg 0).toNat + nnn.toNat := by
  simp only [State.indexedTarget, BitVec.toNat_add, zextReg_toNat, addrImm_toNat]
  have := nnn.isLt
  have := (s.reg 0).isLt
  omega

@[simp] theorem bcdBytes_length (v : Byte) : (bcdBytes v).length = 3 := rfl

@[simp] theorem addByte_toNat (a b : Byte) : (addByte a b).toNat = (a.toNat + b.toNat) % 256 := by
  simp [addByte]

@[simp] theorem subByte_toNat (a b : Byte) : (subByte a b).toNat = (256 + a.toNat - b.toNat) % 256 := by
  simp only [subByte, BitVec.toNat_ofInt]
  have := a.isLt
  have := b.isLt
  omega

/-! ### The open font parameters -/

/-- The machine's font configuration is well formed (D7). -/
theorem Config_font_wellFormed : fontWellFormed Config.fontBaseAddr Config.fontStride.val = true := by
  have h1 := Config.fontBase.isLt
  have h2 := Config.fontStride.isLt
  simp only [fontWellFormed, Config.fontBaseAddr, BitVec.toNat_ofNat, decide_eq_true_eq, Config.memSize] at *
  omega

/-- Of a font digit, Fx29's address is the sum itself, inside memory (R172, D7). -/
theorem glyphAddr_toNat {v : Byte} (h : v.toNat ≤ 0xF) :
    (glyphAddr v).toNat = Config.fontBaseAddr.toNat + Config.fontStride.val * v.toNat := by
  have hwf := Config_font_wellFormed
  simp only [fontWellFormed, decide_eq_true_eq, Config.memSize] at hwf
  have hm : Config.fontStride.val * v.toNat ≤ Config.fontStride.val * 15 := Nat.mul_le_mul_left _ h
  simp only [glyphAddr, fontAddr, BitVec.toNat_ofNat]
  omega

/-! ### Flags: each is 0 or 1 (R22) -/

theorem flagByte_cases (b : Bool) : flagByte b = 0 ∨ flagByte b = 1 := by cases b <;> simp [flagByte]

@[simp] theorem flagByte_eq_one {b : Bool} : flagByte b = 1 ↔ b = true := by cases b <;> simp [flagByte]

/-! ### The tick -/

@[simp] theorem tickDown_toNat (v : Byte) : (tickDown v).toNat = v.toNat - 1 := by
  unfold tickDown
  split
  · rename_i h
    simp [h]
  · rename_i h
    have hv : v.toNat ≠ 0 := fun h' => h (BitVec.eq_of_toNat_eq (by simpa using h'))
    have := v.isLt
    have h1 : (1 : Byte).toNat = 1 := rfl
    simp only [BitVec.toNat_sub, h1]
    omega

/-! ### How an instruction ends -/

@[simp] theorem complete_eq (s : State) : complete s = .next s := rfl

@[simp] theorem raiseFatal_eq (c : FatalCause) (s : State) : raiseFatal c s = .next (s.enterFatal c) := rfl

theorem State.afterInstr_running {s : State} (h : s.status = .running) : s.afterInstr = s.tick := by
  simp [State.afterInstr, h]

theorem State.afterInstr_not_running {s : State} (h : s.status ≠ .running) : s.afterInstr = s := by
  unfold State.afterInstr
  split
  · contradiction
  · rfl
  · rfl

/-- The end of an instruction ticks or does nothing. -/
theorem State.afterInstr_cases (s : State) : s.afterInstr = s.tick ∨ s.afterInstr = s := by
  by_cases h : s.status = .running
  · exact .inl (State.afterInstr_running h)
  · exact .inr (State.afterInstr_not_running h)

/-! ### Fetch -/

theorem State.fetchWord_eq_some {s : State} {w : Word} :
    s.fetchWord = some w ↔
      s.pc.toNat ≤ 0xFFE ∧ w = bigEndian (s.mem.read s.pc.toNat) (s.mem.read (s.pc.toNat + 1)) := by
  simp only [State.fetchWord]
  split <;> simp_all [eq_comm]

theorem State.fetchWord_eq_none {s : State} : s.fetchWord = none ↔ 0xFFE < s.pc.toNat := by
  simp only [State.fetchWord]
  split <;> simp_all

end Sys2Proof.Machine
end

