-- ==== Sys2Proof/Laws/PerInstr.lean ====
section
/-! SUPPORT. Facts made per instruction. `SelectsOwnRow`: the word of an instruction selects, by mask and match, the row
of the opcode map it belongs to (30_encoding.md R72). -/

namespace Sys2Proof.Laws.SelectsOwnRow

/-- The encoded word selects the instruction's row of R72. -/
def Statement (i : Instr) : Prop := i.row.selects (encode i) = true

/-- A row is selected when each bit of the word agrees with it or is masked out. -/
theorem selects_of_bits {r : OpcodeRow} {w : Word}
    (h : ∀ k, k < 16 → (w.getLsbD k && r.mask.getLsbD k) = r.value.getLsbD k) : r.selects w = true := by
  rw [OpcodeRow.selects, beq_iff_eq]
  apply BitVec.eq_of_getLsbD_eq
  intro k hk
  rw [BitVec.getLsbD_and]
  exact h k hk

theorem cls : Statement (.cls) := by
  unfold Statement
  decide

theorem ret : Statement (.ret) := by
  unfold Statement
  decide

theorem jp (nnn : Imm12) : Statement (.jp nnn) := by
  apply selects_of_bits
  intro k hk
  interval_cases k <;> simp [Instr.row, encode, getLsbD_encodeNNN, -BitVec.getLsbD_eq_getElem]

theorem call (nnn : Imm12) : Statement (.call nnn) := by
  apply selects_of_bits
  intro k hk
  interval_cases k <;> simp [Instr.row, encode, getLsbD_encodeNNN, -BitVec.getLsbD_eq_getElem]

theorem seImm (x : RegNum) (nn : Imm8) : Statement (.seImm x nn) := by
  apply selects_of_bits
  intro k hk
  interval_cases k <;> simp [Instr.row, encode, getLsbD_encodeXNN, -BitVec.getLsbD_eq_getElem]

theorem sneImm (x : RegNum) (nn : Imm8) : Statement (.sneImm x nn) := by
  apply selects_of_bits
  intro k hk
  interval_cases k <;> simp [Instr.row, encode, getLsbD_encodeXNN, -BitVec.getLsbD_eq_getElem]

theorem seReg (x : RegNum) (y : RegNum) : Statement (.seReg x y) := by
  apply selects_of_bits
  intro k hk
  interval_cases k <;> simp [Instr.row, encode, getLsbD_encodeXYN, -BitVec.getLsbD_eq_getElem]

theorem ldImm (x : RegNum) (nn : Imm8) : Statement (.ldImm x nn) := by
  apply selects_of_bits
  intro k hk
  interval_cases k <;> simp [Instr.row, encode, getLsbD_encodeXNN, -BitVec.getLsbD_eq_getElem]

theorem addImm (x : RegNum) (nn : Imm8) : Statement (.addImm x nn) := by
  apply selects_of_bits
  intro k hk
  interval_cases k <;> simp [Instr.row, encode, getLsbD_encodeXNN, -BitVec.getLsbD_eq_getElem]

theorem ldReg (x : RegNum) (y : RegNum) : Statement (.ldReg x y) := by
  apply selects_of_bits
  intro k hk
  interval_cases k <;> simp [Instr.row, encode, getLsbD_encodeXYN, -BitVec.getLsbD_eq_getElem]

theorem orReg (x : RegNum) (y : RegNum) : Statement (.orReg x y) := by
  apply selects_of_bits
  intro k hk
  interval_cases k <;> simp [Instr.row, encode, getLsbD_encodeXYN, -BitVec.getLsbD_eq_getElem]

theorem andReg (x : RegNum) (y : RegNum) : Statement (.andReg x y) := by
  apply selects_of_bits
  intro k hk
  interval_cases k <;> simp [Instr.row, encode, getLsbD_encodeXYN, -BitVec.getLsbD_eq_getElem]

theorem xorReg (x : RegNum) (y : RegNum) : Statement (.xorReg x y) := by
  apply selects_of_bits
  intro k hk
  interval_cases k <;> simp [Instr.row, encode, getLsbD_encodeXYN, -BitVec.getLsbD_eq_getElem]

theorem addReg (x : RegNum) (y : RegNum) : Statement (.addReg x y) := by
  apply selects_of_bits
  intro k hk
  interval_cases k <;> simp [Instr.row, encode, getLsbD_encodeXYN, -BitVec.getLsbD_eq_getElem]

theorem subReg (x : RegNum) (y : RegNum) : Statement (.subReg x y) := by
  apply selects_of_bits
  intro k hk
  interval_cases k <;> simp [Instr.row, encode, getLsbD_encodeXYN, -BitVec.getLsbD_eq_getElem]

theorem shr (x : RegNum) (y : RegNum) : Statement (.shr x y) := by
  apply selects_of_bits
  intro k hk
  interval_cases k <;> simp [Instr.row, encode, getLsbD_encodeXYN, -BitVec.getLsbD_eq_getElem]

theorem subnReg (x : RegNum) (y : RegNum) : Statement (.subnReg x y) := by
  apply selects_of_bits
  intro k hk
  interval_cases k <;> simp [Instr.row, encode, getLsbD_encodeXYN, -BitVec.getLsbD_eq_getElem]

theorem shl (x : RegNum) (y : RegNum) : Statement (.shl x y) := by
  apply selects_of_bits
  intro k hk
  interval_cases k <;> simp [Instr.row, encode, getLsbD_encodeXYN, -BitVec.getLsbD_eq_getElem]

theorem sneReg (x : RegNum) (y : RegNum) : Statement (.sneReg x y) := by
  apply selects_of_bits
  intro k hk
  interval_cases k <;> simp [Instr.row, encode, getLsbD_encodeXYN, -BitVec.getLsbD_eq_getElem]

theorem ldI (nnn : Imm12) : Statement (.ldI nnn) := by
  apply selects_of_bits
  intro k hk
  interval_cases k <;> simp [Instr.row, encode, getLsbD_encodeNNN, -BitVec.getLsbD_eq_getElem]

theorem jpV0 (nnn : Imm12) : Statement (.jpV0 nnn) := by
  apply selects_of_bits
  intro k hk
  interval_cases k <;> simp [Instr.row, encode, getLsbD_encodeNNN, -BitVec.getLsbD_eq_getElem]

theorem rnd (x : RegNum) (nn : Imm8) : Statement (.rnd x nn) := by
  apply selects_of_bits
  intro k hk
  interval_cases k <;> simp [Instr.row, encode, getLsbD_encodeXNN, -BitVec.getLsbD_eq_getElem]

theorem drw (x : RegNum) (y : RegNum) (n : Imm4) : Statement (.drw x y n) := by
  apply selects_of_bits
  intro k hk
  interval_cases k <;> simp [Instr.row, encode, getLsbD_encodeXYN, -BitVec.getLsbD_eq_getElem]

theorem skp (x : RegNum) : Statement (.skp x) := by
  apply selects_of_bits
  intro k hk
  interval_cases k <;> simp [Instr.row, encode, getLsbD_encodeXS, -BitVec.getLsbD_eq_getElem]

theorem sknp (x : RegNum) : Statement (.sknp x) := by
  apply selects_of_bits
  intro k hk
  interval_cases k <;> simp [Instr.row, encode, getLsbD_encodeXS, -BitVec.getLsbD_eq_getElem]

theorem ldVxDt (x : RegNum) : Statement (.ldVxDt x) := by
  apply selects_of_bits
  intro k hk
  interval_cases k <;> simp [Instr.row, encode, getLsbD_encodeXS, -BitVec.getLsbD_eq_getElem]

theorem ldVxKey (x : RegNum) : Statement (.ldVxKey x) := by
  apply selects_of_bits
  intro k hk
  interval_cases k <;> simp [Instr.row, encode, getLsbD_encodeXS, -BitVec.getLsbD_eq_getElem]

theorem ldDtVx (x : RegNum) : Statement (.ldDtVx x) := by
  apply selects_of_bits
  intro k hk
  interval_cases k <;> simp [Instr.row, encode, getLsbD_encodeXS, -BitVec.getLsbD_eq_getElem]

theorem ldStVx (x : RegNum) : Statement (.ldStVx x) := by
  apply selects_of_bits
  intro k hk
  interval_cases k <;> simp [Instr.row, encode, getLsbD_encodeXS, -BitVec.getLsbD_eq_getElem]

theorem addIVx (x : RegNum) : Statement (.addIVx x) := by
  apply selects_of_bits
  intro k hk
  interval_cases k <;> simp [Instr.row, encode, getLsbD_encodeXS, -BitVec.getLsbD_eq_getElem]

theorem ldFontVx (x : RegNum) : Statement (.ldFontVx x) := by
  apply selects_of_bits
  intro k hk
  interval_cases k <;> simp [Instr.row, encode, getLsbD_encodeXS, -BitVec.getLsbD_eq_getElem]

theorem ldBcdVx (x : RegNum) : Statement (.ldBcdVx x) := by
  apply selects_of_bits
  intro k hk
  interval_cases k <;> simp [Instr.row, encode, getLsbD_encodeXS, -BitVec.getLsbD_eq_getElem]

theorem storeRegs (x : RegNum) : Statement (.storeRegs x) := by
  apply selects_of_bits
  intro k hk
  interval_cases k <;> simp [Instr.row, encode, getLsbD_encodeXS, -BitVec.getLsbD_eq_getElem]

theorem loadRegs (x : RegNum) : Statement (.loadRegs x) := by
  apply selects_of_bits
  intro k hk
  interval_cases k <;> simp [Instr.row, encode, getLsbD_encodeXS, -BitVec.getLsbD_eq_getElem]

end Sys2Proof.Laws.SelectsOwnRow
end

