-- ==== Sys2Proof/Laws/Step.lean ====
section
/-! SUPPORT. What an instruction and a step can do, said once: `exec_answers`, `exec_cases`, `step_cases`. -/

namespace Sys2Proof.Machine

/-- Every instruction answers a next state (40_step_cycle.md R105: complete, fatal and wait are all next states). -/
theorem exec_answers (i : Instr) (s : State) : ∃ t, exec i s = .next t := by
  cases i with
  | ret => simp only [exec, execRet]; split <;> exact ⟨_, rfl⟩
  | call nnn => simp only [exec, execCall]; split <;> exact ⟨_, rfl⟩
  | drw x y n => simp only [exec, execDrw]; split <;> exact ⟨_, rfl⟩
  | skp x => simp only [exec, execSkp]; split <;> exact ⟨_, rfl⟩
  | sknp x => simp only [exec, execSknp]; split <;> exact ⟨_, rfl⟩
  | ldFontVx x => simp only [exec, execLdFontVx]; split <;> exact ⟨_, rfl⟩
  | ldBcdVx x => simp only [exec, execLdBcdVx]; split <;> exact ⟨_, rfl⟩
  | storeRegs x => simp only [exec, execStoreRegs]; split <;> exact ⟨_, rfl⟩
  | loadRegs x => simp only [exec, execLoadRegs]; split <;> exact ⟨_, rfl⟩
  | _ => exact ⟨_, rfl⟩

/-- An instruction raises a fatal condition, enters the key wait (Fx0A), or completes; where it completes, status,
outputs, inputs and the key latch are as before (R105). -/
theorem exec_cases {i : Instr} {s t : State} (h : exec i s = .next t) :
    (∃ c, t = s.enterFatal c) ∨ (∃ x, i = .ldVxKey x ∧ t = s.setStatus (.awaitingKey x)) ∨
      (t.status = s.status ∧ t.out = s.out ∧ t.env = s.env ∧ t.key = s.key) := by
  cases i with
  | ret =>
    simp only [exec, execRet] at h
    split at h <;> cases h
    · exact .inr (.inr ⟨rfl, rfl, rfl, rfl⟩)
    · exact .inl ⟨_, rfl⟩
  | call nnn =>
    simp only [exec, execCall] at h
    split at h <;> cases h
    · exact .inr (.inr ⟨rfl, rfl, rfl, rfl⟩)
    · exact .inl ⟨_, rfl⟩
  | drw x y n =>
    simp only [exec, execDrw] at h
    split at h <;> cases h
    · exact .inr (.inr ⟨rfl, rfl, rfl, rfl⟩)
    · exact .inl ⟨_, rfl⟩
  | skp x =>
    simp only [exec, execSkp] at h
    split at h <;> cases h
    · exact .inr (.inr ⟨rfl, rfl, rfl, rfl⟩)
    · exact .inl ⟨_, rfl⟩
  | sknp x =>
    simp only [exec, execSknp] at h
    split at h <;> cases h
    · exact .inr (.inr ⟨rfl, rfl, rfl, rfl⟩)
    · exact .inl ⟨_, rfl⟩
  | ldFontVx x =>
    simp only [exec, execLdFontVx] at h
    split at h <;> cases h
    · exact .inr (.inr ⟨rfl, rfl, rfl, rfl⟩)
    · exact .inl ⟨_, rfl⟩
  | ldBcdVx x =>
    simp only [exec, execLdBcdVx] at h
    split at h <;> cases h
    · exact .inr (.inr ⟨rfl, rfl, rfl, rfl⟩)
    · exact .inl ⟨_, rfl⟩
  | storeRegs x =>
    simp only [exec, execStoreRegs] at h
    split at h <;> cases h
    · exact .inr (.inr ⟨rfl, rfl, rfl, rfl⟩)
    · exact .inl ⟨_, rfl⟩
  | loadRegs x =>
    simp only [exec, execLoadRegs] at h
    split at h <;> cases h
    · have hfr := (s.loadRegsUpTo_spec x).1
      refine .inr (.inr ⟨?_, ?_, ?_, ?_⟩) <;> (rw [hfr]; rfl)
    · exact .inl ⟨_, rfl⟩
  | ldVxKey x =>
    cases h
    exact .inr (.inl ⟨x, rfl, rfl⟩)
  | _ =>
    cases h
    exact .inr (.inr ⟨rfl, rfl, rfl, rfl⟩)

/-- A step is, by status (R100): nothing but cleared outputs; the key wait; or, Running, a fetch past memory, an unknown
word, or one instruction with its end. The inputs are used up in each. -/
theorem step_cases {s t : State} (h : step s = .next t) :
    (∃ c, s.status = .halted c ∧ t = s.beginStep.endStep) ∨
    (∃ x, s.status = .awaitingKey x ∧ t = (s.beginStep.keyWait x).endStep) ∨
    (s.status = .running ∧
      ((s.beginStep.fetchWord = none ∧ t = (s.beginStep.enterFatal .fetchOutOfBounds).endStep) ∨
       (∃ w, s.beginStep.fetchWord = some w ∧ decode w = none ∧ t = (s.beginStep.reportUnknown w).tick.endStep) ∨
       (∃ w i u, s.beginStep.fetchWord = some w ∧ decode w = some i ∧ exec i s.beginStep = .next u ∧
         t = u.afterInstr.endStep))) := by
  unfold step stepCycle stepBody at h
  cases hst : s.status with
  | halted c =>
    simp only [State.beginStep_status, hst] at h
    cases h
    exact .inl ⟨c, rfl, rfl⟩
  | awaitingKey x =>
    simp only [State.beginStep_status, hst] at h
    cases h
    exact .inr (.inl ⟨x, rfl, rfl⟩)
  | running =>
    simp only [State.beginStep_status, hst, runStep] at h
    refine .inr (.inr ⟨rfl, ?_⟩)
    cases hf : s.beginStep.fetchWord with
    | none =>
      simp only [hf] at h
      cases h
      exact .inl ⟨rfl, rfl⟩
    | some w =>
      simp only [hf] at h
      cases hd : decode w with
      | none =>
        simp only [hd] at h
        cases h
        exact .inr (.inl ⟨w, rfl, hd, rfl⟩)
      | some i =>
        obtain ⟨u, hu⟩ := exec_answers i s.beginStep
        simp only [hd, hu] at h
        cases h
        exact .inr (.inr ⟨w, i, u, rfl, hd, hu, rfl⟩)

/-- The key wait with an edge (R204). -/
theorem State.keyWait_some {s : State} {x : RegNum} {k : KeyNum} (h : s.input.keyEdge = some k) :
    s.keyWait x = (((s.setReg x (k.setWidth 8)).advance).setStatus .running).tick := by
  simp [State.keyWait, h]

/-- The key wait without an edge (R204). -/
theorem State.keyWait_none {s : State} {x : RegNum} (h : s.input.keyEdge = none) : s.keyWait x = s := by
  simp [State.keyWait, h]

/-- The inputs the host supplies for the coming step are the ones it reads. -/
@[simp] theorem State.input_withInput (s : State) (i : StepInput) : (s.withInput i).input = i := rfl

/-- Once used, supplied inputs leave the schedule as it was, one step later. -/
theorem State.withInput_env_advance (s : State) (i : StepInput) :
    (s.withInput i).env.advance = { inputs := s.env.inputs, stepIndex := s.env.stepIndex + 1 } := rfl

end Sys2Proof.Machine
end

