-- ==== Sys2Proof/Tests/Slice0.lean ====
section
/-! SUPPORT. The model's own tests: the well-formedness checks refuse ill-formed terms, words written out from the spec's
encodings decode as they should, one step of each instruction gives what the spec's vectors say (95_test_vectors.md; the
vector's name stands before each test), and a concrete state meets the hypotheses of each statement. -/

namespace Sys2Proof.Tests

open Sys2Proof Sys2Proof.Machine

/-! ### Well-formedness: each check refuses an ill-formed term -/

theorem test_font_refused : fontWellFormed 0xFFF 5 = false := by decide
theorem test_font_accepted : fontWellFormed 0x050 5 = true := by decide
theorem test_font_limit : fontWellFormed 0x000 256 = true ∧ fontWellFormed 0x001 256 = false := by decide
/-- S12: one byte more than 0xE00 is rejected. -/
theorem test_load_limit :
    loadFits (List.replicate 0xE00 0) = true ∧ loadFits (List.replicate 0xE01 0) = false := by
  simp only [loadFits, List.length_replicate]
  decide
/-- HOST7, HOST8. -/
theorem test_hostWrite_limit : hostWriteFits 0xFFF [1] = true ∧ hostWriteFits 0xFFF [1, 2] = false := by decide
theorem test_memory_unsorted_refused : Memory.wf [(5, 1), (4, 1)] = false := by decide
theorem test_memory_zero_refused : Memory.wf [(5, 0)] = false := by decide
theorem test_memory_outside_refused : Memory.wf [(0x1000, 1)] = false := by decide

/-! ### Decode: words from the patterns of R72, and the unknown words DEC1 to DEC13 -/

theorem test_decode_fixed : decode 0b0000000011100000 = some .cls ∧ decode 0b0000000011101110 = some .ret := by decide
theorem test_decode_nnn :
    decode 0b0001001000110100 = some (.jp 0x234) ∧ decode 0x2ABC = some (.call 0xABC) ∧
      decode 0xA2F0 = some (.ldI 0x2F0) ∧ decode 0xB300 = some (.jpV0 0x300) := by decide
theorem test_decode_xnn :
    decode 0b0011001101000010 = some (.seImm 3 0x42) ∧ decode 0x43FF = some (.sneImm 3 0xFF) ∧
      decode 0x6B0C = some (.ldImm 0xB 0x0C) ∧ decode 0x7F01 = some (.addImm 0xF 0x01) ∧
      decode 0xC30F = some (.rnd 3 0x0F) := by decide
theorem test_decode_xy :
    decode 0b0101000100100000 = some (.seReg 1 2) ∧ decode 0x9120 = some (.sneReg 1 2) ∧
      decode 0x8120 = some (.ldReg 1 2) ∧ decode 0x8121 = some (.orReg 1 2) ∧ decode 0x8122 = some (.andReg 1 2) ∧
      decode 0x8123 = some (.xorReg 1 2) := by decide
theorem test_decode_flag_alu :
    decode 0b1000000100100100 = some (.addReg 1 2) ∧ decode 0x8125 = some (.subReg 1 2) ∧
      decode 0x8126 = some (.shr 1 2) ∧ decode 0x8127 = some (.subnReg 1 2) ∧ decode 0x812E = some (.shl 1 2) := by decide
theorem test_decode_drw : decode 0b1101000000010101 = some (.drw 0 1 5) := by decide
theorem test_decode_keys : decode 0xE19E = some (.skp 1) ∧ decode 0xE1A1 = some (.sknp 1) := by decide
theorem test_decode_misc :
    decode 0xF307 = some (.ldVxDt 3) ∧ decode 0xF50A = some (.ldVxKey 5) ∧ decode 0xF215 = some (.ldDtVx 2) ∧
      decode 0xF418 = some (.ldStVx 4) ∧ decode 0xF21E = some (.addIVx 2) ∧ decode 0xF429 = some (.ldFontVx 4) ∧
      decode 0xF533 = some (.ldBcdVx 5) ∧ decode 0xF255 = some (.storeRegs 2) ∧ decode 0xF265 = some (.loadRegs 2) := by
  decide
theorem test_decode_unknown :
    (([0x0000, 0x0123, 0x01E0, 0x00EF, 0x5121, 0x9121, 0x8008, 0x800F, 0xE000, 0xE19F, 0xF000, 0xF0FF, 0xFFFF] :
      List Word).all fun w => decode w == none) = true := by decide
theorem test_decode_truncated : decodeBytes [0x12] = .error .truncated := by rfl
theorem test_decode_table_word : decodeTableWord 16 0xD015 = some (.drw 0 1 5) := by decide
/-- R72: no two rows' patterns overlap (for two rows, some bit fixed by both differs). -/
theorem test_rows_disjoint :
    (([.cls, .ret, .jp 0, .call 0, .seImm 0 0, .sneImm 0 0, .seReg 0 0, .ldImm 0 0, .addImm 0 0, .ldReg 0 0, .orReg 0 0,
      .andReg 0 0, .xorReg 0 0, .addReg 0 0, .subReg 0 0, .shr 0 0, .subnReg 0 0] ++
     [.shl 0 0, .sneReg 0 0, .ldI 0, .jpV0 0, .rnd 0 0, .drw 0 0 0, .skp 0, .sknp 0, .ldVxDt 0, .ldVxKey 0, .ldDtVx 0,
      .ldStVx 0, .addIVx 0, .ldFontVx 0, .ldBcdVx 0, .storeRegs 0, .loadRegs 0] : List Instr).map Instr.row).Pairwise
      (fun r r' => r.value &&& (r.mask &&& r'.mask) ≠ r'.value &&& (r.mask &&& r'.mask)) := by decide

/-! ### One step of each instruction -/

/-- The state after one step from `s` with the word at pc, seen through `f`. -/
def after {α : Type} (s : State) (w : Nat) (f : State → α) : Option α :=
  match step (s.withFetchWord 16 w) with
  | .next t => some (f t)
  | .fault _ => none
  | .refused _ => none

/-- The reset state with some registers set. -/
def withRegs (rs : List (RegNum × Byte)) : State := rs.foldl (fun s r => s.setReg r.1 r.2) State.reset

/-- The reset state with I and some bytes of memory. -/
def withMem (i : Word) (bytes : List Byte) : State := (State.reset.setI i).setMem (Memory.writeBytes [] i.toNat bytes)

/-- CF8: the entry popped is not cleared. -/
def atDepthTwo : State := ((State.reset.push 0x20A (by decide)).push 0x346 (by decide)).setPc 0x500

theorem test_cls : after (State.reset.setDisp (Display.clear.toggle 3 4)) 0x00E0
    (fun t => (t.disp.pixel 3 4, t.drawPending, t.pc)) = some (false, true, 0x202) := by decide
theorem test_ret : after atDepthTwo 0x00EE (fun t => (t.SP.val, t.pc, t.stack[1])) = some (1, 0x346, 0x346) := by decide
/-- CF7. -/
theorem test_ret_empty : after State.reset 0x00EE (fun t => (t.status, t.pc, t.out.fatal)) =
    some (.halted .stackUnderflow, 0x200, some .stackUnderflow) := by decide
/-- CF1. -/
theorem test_jp : after State.reset 0x1ABC (fun t => t.pc) = some 0xABC := by decide
/-- CF5: the pushed value is 0x1000, wider than 12 bits. -/
theorem test_call : after (State.reset.setPc 0xFFE) 0x2400 (fun t => (t.stack[0], t.SP.val, t.pc)) =
    some (0x1000, 1, 0x400) := by decide
/-- CF6. -/
theorem test_call_full : after { State.reset with SP := 16, DT := 4 } 0x2300
    (fun t => (t.status, t.SP.val, t.pc, t.DT)) = some (.halted .stackOverflow, 16, 0x200, 4) := by decide
/-- CF10, CF11. -/
theorem test_seImm : after (withRegs [(3, 0x42)]) 0x3342 (fun t => t.pc) = some 0x204 ∧
    after (withRegs [(3, 0x42)]) 0x3343 (fun t => t.pc) = some 0x202 := by decide
/-- CF13, CF14. -/
theorem test_sneImm : after (withRegs [(3, 0x42)]) 0x4342 (fun t => t.pc) = some 0x202 ∧
    after (withRegs [(3, 0x42)]) 0x43FF (fun t => t.pc) = some 0x204 := by decide
/-- CF15, CF16. -/
theorem test_seReg : after (withRegs [(1, 7), (2, 7)]) 0x5120 (fun t => t.pc) = some 0x204 ∧
    after (withRegs [(1, 7), (2, 8)]) 0x5120 (fun t => t.pc) = some 0x202 := by decide
/-- CF18, CF19. -/
theorem test_sneReg : after (withRegs [(1, 7), (2, 8)]) 0x9120 (fun t => t.pc) = some 0x204 ∧
    after State.reset 0x9550 (fun t => t.pc) = some 0x202 := by decide
/-- CF22, CF23: not masked, and V0 whatever bits 11–8 hold. -/
theorem test_jpV0 : after (withRegs [(0, 0xFF)]) 0xBFFF (fun t => t.pc) = some 0x10FE ∧
    after (withRegs [(5, 0x20)]) 0xB500 (fun t => t.pc) = some 0x500 := by decide
/-- ALU1. -/
theorem test_ldImm : after State.reset 0x6AFF (fun t => (t.reg 0xA, t.pc)) = some (0xFF, 0x202) := by decide
/-- S3: wraps, VF untouched. -/
theorem test_addImm : after (withRegs [(0, 0xFF), (0xF, 0x55)]) 0x7002 (fun t => (t.reg 0, t.reg 0xF)) =
    some (0x01, 0x55) := by decide
/-- ALU6. -/
theorem test_ldReg : after (withRegs [(1, 0x33)]) 0x8010 (fun t => t.reg 0) = some 0x33 := by decide
/-- ALU7. -/
theorem test_orReg : after (withRegs [(0, 0xF0), (1, 0x0F), (0xF, 1)]) 0x8011 (fun t => (t.reg 0, t.reg 0xF)) =
    some (0xFF, 1) := by decide
/-- ALU8. -/
theorem test_andReg : after (withRegs [(0, 0xF0), (1, 0x3C)]) 0x8012 (fun t => t.reg 0) = some 0x30 := by decide
/-- ALU9. -/
theorem test_xorReg : after (withRegs [(0, 0xF0), (1, 0x3C)]) 0x8013 (fun t => t.reg 0) = some 0xCC := by decide
/-- S4. -/
theorem test_addReg : after (withRegs [(0, 0xFF), (1, 1)]) 0x8014 (fun t => (t.reg 0, t.reg 0xF)) = some (0, 1) := by decide
/-- ALU15: the flag, not the sum. -/
theorem test_addReg_vf : after (withRegs [(0xF, 0x10), (1, 0x20)]) 0x8F14 (fun t => t.reg 0xF) = some 0 := by decide
/-- ALU18. -/
theorem test_subReg : after (withRegs [(0, 3), (1, 5)]) 0x8015 (fun t => (t.reg 0, t.reg 0xF)) = some (0xFE, 0) := by decide
/-- ALU19: equal is no borrow. -/
theorem test_subReg_equal : after (withRegs [(0, 0x42), (1, 0x42)]) 0x8015 (fun t => (t.reg 0, t.reg 0xF)) =
    some (0, 1) := by decide
/-- ALU30: Vy is not read. -/
theorem test_shr : after (withRegs [(0, 4), (1, 0xFF)]) 0x8016 (fun t => (t.reg 0, t.reg 0xF)) = some (2, 0) := by decide
/-- ALU31: the flag, not the shifted value. -/
theorem test_shr_vf : after (withRegs [(0xF, 3)]) 0x8F06 (fun t => t.reg 0xF) = some 1 := by decide
/-- ALU24. -/
theorem test_subnReg : after (withRegs [(0, 3), (1, 5)]) 0x8017 (fun t => (t.reg 0, t.reg 0xF)) = some (2, 1) := by decide
/-- ALU33. -/
theorem test_shl : after (withRegs [(0, 0xFF)]) 0x800E (fun t => (t.reg 0, t.reg 0xF)) = some (0xFE, 1) := by decide
/-- ALU36: the flag, not 0x80. -/
theorem test_shl_vf : after (withRegs [(0xF, 0x40)]) 0x8F0E (fun t => t.reg 0xF) = some 0 := by decide
/-- ALU38, with the step's input supplied. -/
theorem test_rnd : after (State.reset.withInput { keyEdge := none, rnd := 0xAB }) 0xC30F (fun t => t.reg 3) =
    some 0x0B := by decide
/-- MEM2. -/
theorem test_ldI : after (State.reset.setI 0x123) 0xAFFF (fun t => t.I) = some 0xFFF := by decide
/-- MEM4: past 12 bits, no flag. -/
theorem test_addIVx : after ((withRegs [(0, 1)]).setI 0xFFF) 0xF01E (fun t => (t.I, t.reg 0xF)) = some (0x1000, 0) := by
  decide
/-- MEM7, with the illustrative parameters. -/
theorem test_fontAddr : fontAddr 0x050 5 0x0A = 0x082 := by decide
/-- MEM10. -/
theorem test_ldFontVx_fatal : after ((withRegs [(4, 0x10)]).setI 0x300) 0xF429 (fun t => (t.status, t.I)) =
    some (.halted .fontDigitOutOfRange, 0x300) := by decide
/-- MEM15: the last legal I. -/
theorem test_ldBcdVx : after ((withRegs [(5, 0x64)]).setI 0xFFD) 0xF533
    (fun t => ([0xFFD, 0xFFE, 0xFFF].map t.mem.read, t.status)) = some ([1, 0, 0], .running) := by decide
/-- MEM16: no byte written. -/
theorem test_ldBcdVx_fatal : after ((withRegs [(5, 0x64)]).setI 0xFFE) 0xF533
    (fun t => ([0xFFE, 0xFFF].map t.mem.read, t.status)) = some ([0, 0], .halted .dataOutOfBounds) := by decide
/-- MEM17. -/
theorem test_storeRegs : after ((withRegs [(0, 0x11), (1, 0x22), (2, 0x33), (3, 0x44)]).setI 0x400) 0xF255
    (fun t => ([0x400, 0x401, 0x402, 0x403].map t.mem.read, t.I)) = some ([0x11, 0x22, 0x33, 0], 0x400) := by decide
/-- MEM20: no byte written, not even those inside memory. -/
theorem test_storeRegs_fatal : after ((withRegs [(0, 0x11)]).setI 0xFF1) 0xFF55
    (fun t => (t.mem.read 0xFF1, t.status)) = some (0, .halted .dataOutOfBounds) := by decide
/-- MEM21. -/
theorem test_loadRegs : after ((withMem 0x300 [1, 2, 3]).setReg 3 0x99) 0xF265
    (fun t => ([0, 1, 2, 3].map t.reg, t.I)) = some ([1, 2, 3, 0x99], 0x300) := by decide
/-- DSP6: columns 60 to 63, then 0 to 3. -/
theorem test_drw_wrap : after ((withMem 0x300 [0xFF]).setReg 0 60) 0xD011
    (fun t => ([59, 60, 63, 0, 3, 4].map (fun c => t.disp.pixel c 0), t.reg 0xF)) =
      some ([false, true, true, true, true, false], 0) := by decide
/-- DSP4: collision. -/
theorem test_drw_collision : after ((withMem 0x300 [0x80]).setDisp (Display.clear.toggle 0 0)) 0xD011
    (fun t => (t.disp.pixel 0 0, t.reg 0xF, t.drawPending)) = some (false, 1, true) := by decide
/-- DSP12. -/
theorem test_drw_fatal : after (State.reset.setI 0xFFE) 0xD013 (fun t => (t.status, t.drawPending)) =
    some (.halted .dataOutOfBounds, false) := by decide
/-- KT1, KT5. -/
theorem test_skp : after ((withRegs [(1, 5)]).setKeys 0x0020) 0xE19E (fun t => t.pc) = some 0x204 ∧
    after (withRegs [(1, 0x10)]) 0xE19E (fun t => (t.status, t.pc)) = some (.halted .keyIndexOutOfRange, 0x200) := by decide
/-- KT3, KT4. -/
theorem test_sknp : after ((withRegs [(1, 5)]).setKeys 0x0020) 0xE1A1 (fun t => t.pc) = some 0x202 ∧
    after ((withRegs [(1, 6)]).setKeys 0x0020) 0xE1A1 (fun t => t.pc) = some 0x204 := by decide
/-- KT8: the value before the tick. -/
theorem test_ldVxDt : after (State.reset.setDT 0x10) 0xF307 (fun t => (t.reg 3, t.DT)) = some (0x10, 0x0F) := by decide
/-- KT17: a key edge of the same step is discarded. -/
theorem test_ldVxKey : after (State.reset.withInput { keyEdge := some 7, rnd := 0 }) 0xF50A
    (fun t => (t.status, t.reg 5, t.pc)) = some (.awaitingKey 5, 0, 0x200) := by decide
/-- KT10. -/
theorem test_ldDtVx : after (withRegs [(2, 3)]) 0xF215 (fun t => t.DT) = some 2 := by decide
/-- KT13, KT14. -/
theorem test_ldStVx : after (withRegs [(4, 1)]) 0xF418 (fun t => (t.ST, t.out.beep)) = some (0, true) ∧
    after (State.reset.setST 7) 0xF418 (fun t => (t.ST, t.out.beep)) = some (0, false) := by decide
/-- DEC2: reported, skipped, ticked. -/
theorem test_unknown : after (State.reset.setDT 2) 0x0123 (fun t => (t.out.unknown, t.pc, t.DT)) =
    some (some 0x0123, 0x202, 1) := by decide

/-! ### Steps that run no instruction, and host operations -/

/-- The state after one step, seen through `f`. -/
def stepped {α : Type} (s : State) (f : State → α) : Option α :=
  match step s with
  | .next t => some (f t)
  | .fault _ => none
  | .refused _ => none

/-- A core that waits for a key into V5, at 0x200 (KT18, KT19). -/
def waiting : State := { State.reset with status := .awaitingKey 5, DT := 5, ST := 1 }

/-- KT19. -/
theorem test_keyWait_edge : stepped (waiting.withInput { keyEdge := some 7, rnd := 0 })
    (fun t => (t.reg 5, t.pc, t.status, t.DT, t.ST, t.out.beep)) = some (7, 0x202, .running, 4, 0, true) := by decide
/-- KT18. -/
theorem test_keyWait_none : stepped (waiting.withInput { keyEdge := none, rnd := 0 })
    (fun t => (t.reg 5, t.pc, t.status, t.DT, t.ST)) = some (0, 0x200, .awaitingKey 5, 5, 1) := by decide
/-- ST5: no tick, no beep. -/
theorem test_fetch_past_memory : stepped { State.reset with pc := 0xFFF, DT := 5, ST := 1 }
    (fun t => (t.status, t.pc, t.DT, t.ST, t.out.beep)) = some (.halted .fetchOutOfBounds, 0xFFF, 5, 1, false) := by decide
/-- ST6. -/
theorem test_halted : stepped { State.reset with status := .halted .stackUnderflow, DT := 5 }
    (fun t => (t.status, t.DT, t.out)) = some (.halted .stackUnderflow, 5, {}) := by decide
/-- HOST3, HOST5. -/
theorem test_load : ((State.reset.setStatus (.halted .fetchOutOfBounds)).load [0x60, 0x01]).2.mem.read 0x201 = 0x01 ∧
    ((State.reset.setStatus (.halted .fetchOutOfBounds)).load [0x60, 0x01]).2.status = .halted .fetchOutOfBounds := by
  decide
/-- HOST8: nothing written. -/
theorem test_hostWrite_refused : (State.reset.hostWrite 0xFFF [1, 2]).2.mem = [] := by decide

end Sys2Proof.Tests
end

