-- ==== Sys2Proof/Tests/Witnesses.lean ====
section
/-! SUPPORT. For each statement with hypotheses, concrete states and operands that meet them all, at the boundary values of
its clauses. -/

namespace Sys2Proof.Tests

open Sys2Proof Sys2Proof.Machine

/-- A step that answers a next state, as a check. -/
def isNext (r : Result) : Bool :=
  match r with
  | .next _ => true
  | .fault _ => false
  | .refused _ => false

/-- A next state of a result, or the reset state. -/
def nextOf (r : Result) : State :=
  match r with
  | .next t => t
  | .fault _ => State.reset
  | .refused _ => State.reset

theorem eq_next_of_isNext {r : Result} (h : isNext r = true) : r = .next (nextOf r) := by
  cases r with
  | next t => rfl
  | fault f => cases h
  | refused f => cases h

/-! ### Steps -/

/-- The last address a word can be fetched from; reset memory holds the unknown word 0 there. -/
def atLastWord : State := State.reset.setPc 0xFFE

/-- The first pc past it. -/
def pastLastWord : State := State.reset.setPc 0xFFF

/-- 6005 at 0x200. -/
def atLdImm : State := State.reset.withFetchWord 16 0x6005

theorem witness_running_step :
    (pastLastWord.status = .running ∧ 0xFFE < pastLastWord.pc.toNat) ∧
    (atLastWord.status = .running ∧ atLastWord.pc.toNat ≤ 0xFFE ∧ decode atLastWord.wordAtPc = none) ∧
    (atLdImm.status = .running ∧ atLdImm.pc.toNat ≤ 0xFFE ∧ decode atLdImm.wordAtPc = some (.ldImm 0 5)) := by decide

theorem witness_running_step_ends :
    (nextOf (exec (.ldImm 0 5) atLdImm.beginStep)).status = .running ∧
    (nextOf (exec (.ldVxKey 5) atLdImm.beginStep)).status ≠ .running := by decide

theorem witness_fetch_past_memory : pastLastWord.status = .running ∧ 0xFFE < pastLastWord.pc.toNat := by decide

theorem witness_unknown_word : atLastWord.Fetches ∧ decode atLastWord.wordAtPc = none := ⟨⟨rfl, by decide⟩, by decide⟩

/-- A halted core. -/
def haltedCore : State := State.reset.setStatus (.halted .stackOverflow)

theorem witness_halted_step : haltedCore.status = .halted .stackOverflow ∧ HostOp.load [0x12] ≠ .reset := by decide

theorem witness_halt_persists : haltedCore.status = .halted .stackOverflow ∧
    .host .reset ∉ [Event.step { keyEdge := some 3, rnd := 0 }, .host (.load [0x12, 0x00]), .host .readStatus] := by decide

theorem witness_tick_at_one : (State.reset.setST 1).ST = 1 ∧ State.reset.ST ≠ 1 := by decide

theorem witness_fatal_table : State.reset.status = .running ∧ isNext (step pastLastWord) = true ∧
    atLastWord.pc.toNat ≤ 0xFFE ∧ decode atLastWord.wordAtPc = none := by decide

theorem witness_fatal_precise : pastLastWord.status = .running ∧
    step pastLastWord = .next (nextOf (step pastLastWord)) ∧
    (nextOf (step pastLastWord)).status = .halted .fetchOutOfBounds :=
  ⟨rfl, rfl, by decide⟩

/-! ### Encoding -/

theorem witness_decode_encode : (Instr.drw 0xF 0xF 0xF).wellFormed = true := rfl

theorem witness_encode_decode : decode 0xFF65 = some (.loadRegs 0xF) := by decide

theorem witness_opcode_map : decode 0x8FFE = some (.shl 0xF 0xF) ∧ (Instr.shl 0 0).row.selects 0x8FFE = true := by decide

/-! ### Control flow -/

/-- One entry of room. -/
def atDepth15 : State := { State.reset with SP := 15 }

/-- No room. -/
def atDepth16 : State := { State.reset with SP := 16 }

theorem witness_call : atDepth15.SP.val < 16 ∧ State.reset.SP.val < 16 ∧ atDepth16.SP.val = 16 := by decide

theorem witness_return : atDepth16.SP.val = (15 : Fin Config.stackDepth).val + 1 ∧
    (atDepthTwo.pop).SP.val = (0 : Fin Config.stackDepth).val + 1 ∧ State.reset.SP.val = 0 := by decide

theorem witness_call_return : atDepth15.SP.val < 16 := by decide

/-! ### ALU -/

theorem witness_flag_alu_register : (0xE : RegNum) ≠ 0xF ∧ (0 : RegNum) ≠ 0xF := by decide

theorem witness_flags : State.reset.status = .running ∧
    exec (.addReg 0 1) State.reset = .next (nextOf (exec (.addReg 0 1) State.reset)) ∧
    (nextOf (exec (.addReg 0 1) State.reset)).status = .running :=
  ⟨rfl, rfl, by decide⟩

theorem witness_flags_changed : (nextOf (exec (.ldImm 0xF 7) State.reset)).reg 0xF ≠ State.reset.reg 0xF := by decide

/-! ### Index register and memory -/

theorem witness_font : ((withRegs [(4, 0xF)]).reg 4).toNat ≤ 0xF ∧ 0xF < ((withRegs [(4, 0x10)]).reg 4).toNat := by decide

theorem witness_bcd : State.reset.mem.wf = true ∧ (State.reset.setI 0xFFD).I.toNat + 2 ≤ 0xFFF ∧
    0xFFF < (State.reset.setI 0xFFE).I.toNat + 2 := by decide

theorem witness_store_load : (withMem 0x300 [1, 2, 3]).mem.wf = true ∧
    (State.reset.setI 0xFF0).I.toNat + (0xF : RegNum).toNat ≤ 0xFFF ∧
    0xFFF < (State.reset.setI 0xFF1).I.toNat + (0xF : RegNum).toNat := by decide

/-- Two registers to store at the end of memory. -/
def toStore : State := (withRegs [(0, 0x60), (1, 0x77)]).setI 0xFFE

theorem witness_store_then_load : toStore.mem.wf = true ∧ toStore.I.toNat + (1 : RegNum).toNat ≤ 0xFFF ∧
    exec (.storeRegs 1) toStore = .next (nextOf (exec (.storeRegs 1) toStore)) ∧
    exec (.loadRegs 1) (nextOf (exec (.storeRegs 1) toStore)) =
      .next (nextOf (exec (.loadRegs 1) (nextOf (exec (.storeRegs 1) toStore)))) :=
  ⟨by decide, by decide, eq_next_of_isNext (by decide), eq_next_of_isNext (by decide)⟩

theorem witness_store_then_load_same : (nextOf (exec (.storeRegs 1) toStore)).I = toStore.I := by decide

theorem witness_fetch_sees_store : toStore.mem.wf = true ∧ toStore.I.toNat + (1 : RegNum).toNat ≤ 0xFFF ∧
    (0 : RegNum).toNat + 1 = (1 : RegNum).toNat ∧ (1 : RegNum).toNat ≤ (1 : RegNum).toNat := by decide

/-! ### Display -/

theorem witness_draw : ((0 : Imm4) = 0) ∧ (State.reset.setI 0xFFE).I.toNat + (2 : Imm4).toNat - 1 ≤ 0xFFF ∧
    (3 : Imm4) ≠ 0 ∧ 0xFFF < (State.reset.setI 0xFFE).I.toNat + (3 : Imm4).toNat - 1 := by decide

/-- A sprite of one pixel, on a clear display. -/
def toDraw : State := withMem 0x300 [0x80]

theorem witness_draw_twice : toDraw.status = .running ∧
    exec (.drw 0 1 1) toDraw = .next (nextOf (exec (.drw 0 1 1) toDraw)) ∧
    (nextOf (exec (.drw 0 1 1) toDraw)).status = .running ∧ (nextOf (exec (.drw 0 1 1) toDraw)).mem = toDraw.mem ∧
    (nextOf (exec (.drw 0 1 1) toDraw)).I = toDraw.I ∧ (nextOf (exec (.drw 0 1 1) toDraw)).reg 0 = toDraw.reg 0 ∧
    (nextOf (exec (.drw 0 1 1) toDraw)).reg 1 = toDraw.reg 1 ∧
    isNext (exec (.drw 0 1 1) (nextOf (exec (.drw 0 1 1) toDraw))) = true :=
  ⟨rfl, eq_next_of_isNext (by decide), by decide, by decide, by decide, by decide, by decide, by decide⟩

theorem witness_draw_twice_clear : ∀ c r, toDraw.disp.pixel c r = false := by
  intro c r
  simp [toDraw, withMem, State.setMem, State.setI, State.reset, Display.pixel]

/-! ### Keys and timers -/

theorem witness_key_skips : ((withRegs [(1, 0xF)]).reg 1).toNat ≤ 0xF ∧ 0xF < ((withRegs [(1, 0x10)]).reg 1).toNat := by
  decide

theorem witness_timer_write :
    ((State.reset.withFetchWord 16 0xF215).Fetches ∧ decode (State.reset.withFetchWord 16 0xF215).wordAtPc = some (.ldDtVx 2)) ∧
    ((State.reset.withFetchWord 16 0xF418).Fetches ∧ decode (State.reset.withFetchWord 16 0xF418).wordAtPc = some (.ldStVx 4)) :=
  ⟨⟨⟨rfl, by decide⟩, by decide⟩, ⟨⟨rfl, by decide⟩, by decide⟩⟩

theorem witness_key_wait_entered : (State.reset.withFetchWord 16 0xF50A).Fetches ∧
    decode (State.reset.withFetchWord 16 0xF50A).wordAtPc = some (.ldVxKey 5) := ⟨⟨rfl, by decide⟩, by decide⟩

theorem witness_key_edge : waiting.status = .awaitingKey 5 ∧
    (waiting.withInput { keyEdge := some 0xF, rnd := 0 }).input.keyEdge = some 0xF ∧
    (waiting.withInput { keyEdge := none, rnd := 0 }).input.keyEdge = none := by decide

/-! ### Host operations -/

theorem witness_load : State.reset.mem.wf = true ∧ (List.replicate 0xE00 (0x12 : Byte)).length ≤ 0xE00 ∧
    0xE00 < (List.replicate 0xE01 (0x12 : Byte)).length := by
  simp only [List.length_replicate]
  decide

theorem witness_hostWrite : State.reset.mem.wf = true ∧ ([] : List Byte).length = 0 ∧
    0xFFF + ([1] : List Byte).length - 1 ≤ 0xFFF ∧ 0 < ([1, 2] : List Byte).length ∧
    0xFFF < 0xFFF + ([1, 2] : List Byte).length - 1 := by decide

/-! ### Rules of the whole machine -/

theorem witness_named_writers : exec (.ldImm 0 5) State.reset = .next (nextOf (exec (.ldImm 0 5) State.reset)) ∧
    (∀ x, Instr.ldImm 0 5 ≠ .ldBcdVx x ∧ Instr.ldImm 0 5 ≠ .storeRegs x) ∧ Instr.ldImm 0 5 ≠ .cls :=
  ⟨rfl, fun _ => ⟨nofun, nofun⟩, nofun⟩

theorem witness_named_register_writers : writesReg (.ldImm 0 5) 1 = false ∧ writesReg (.loadRegs 0xE) 0xF = false ∧
    writesReg (.drw 0 1 5) 0xE = false ∧ writesReg (.addReg 0 1) 0xE = false := by decide

theorem witness_named_status_and_pc_writers : fatalOf (.ldImm 0 5) State.reset = none ∧
    (∀ x, Instr.ldImm 0 5 ≠ .ldVxKey x) ∧ setsPc (.ldImm 0 5) = false ∧ fatalOf (.ldVxKey 5) State.reset = none :=
  ⟨rfl, nofun, rfl, rfl⟩

theorem witness_draw_pending : State.reset.drawPending = false ∧
    (nextOf (step (State.reset.withFetchWord 16 0x00E0))).drawPending = true := by decide

theorem witness_key_latch :
    (∀ k, Event.host (.setKeys k) ∉ [Event.step { keyEdge := some 3, rnd := 0 }, .host .readDisplay]) ∧
    Event.host .reset ∉ [Event.step { keyEdge := some 3, rnd := 0 }, .host .readDisplay] := by
  refine ⟨fun k => ?_, by decide⟩
  simp

theorem witness_inputs : (∀ x, State.reset.status ≠ .awaitingKey x) ∧ (∀ x nn, Instr.drw 0 1 5 ≠ .rnd x nn) :=
  ⟨nofun, nofun⟩

/-- 1200 at 0x200, a jump to itself. -/
def atSelfJump : State := State.reset.withFetchWord 16 0x1200

theorem witness_moves_pc : atSelfJump.status = .running ∧ step atSelfJump = .next (nextOf (step atSelfJump)) ∧
    (nextOf (step atSelfJump)).status = .running ∧ (nextOf (step atSelfJump)).pc = atSelfJump.pc :=
  ⟨rfl, eq_next_of_isNext (by decide), by decide, by decide⟩

/-- A state away from reset that meets the invariant: waiting at 0xFFE with a byte in memory and a full stack. -/
def busy : State :=
  { State.reset with pc := 0xFFE, mem := [(0xFFF, 0x0A)], SP := 16, stack := Vector.replicate 16 0x1000,
                     status := .awaitingKey 3 }

theorem witness_invariant : busy.Inv where
  mem_wf := by decide
  pc_le := by decide
  stack_le := by decide
  wait_pc := fun _ _ => by decide
  beep_st := nofun
  fatal_halted := nofun
  fatal_alone := fun h => absurd rfl h

theorem witness_invariant_step : ∃ t, step (busy.withInput { keyEdge := some 1, rnd := 0 }) = .next t :=
  ⟨_, eq_next_of_isNext (by decide)⟩

end Sys2Proof.Tests
end

-- The proofs for 10_state.md: what an instruction that completes can do, and what follows of each part of the state.
section
/-! PROOFS. What an instruction can do, part by part of the state. `exec_fatal_or_completes` is the one inversion of
`exec`: the frames of 10_state.md R21 to R35 and the invariant are read off its thirteen cases. -/

namespace Sys2Proof.Machine

/-! ### How an instruction ends, with its fatal condition by the table of R220 -/

/-- The state in which an instruction that meets no fatal condition ends, by the parts it writes: which instruction it may
be is said for the parts it changes, the values only as far as a frame or the invariant needs them. -/
inductive Completes (s : State) : Instr → State → Prop where
  | setReg {i : Instr} {x : RegNum} {v : Byte} (hx : writesReg i x = true) : Completes s i (s.setReg x v).advance
  | setRegFlag {i : Instr} {x : RegNum} {r f : Byte} (hx : writesReg i x = true) (hF : writesReg i flagReg = true) :
      Completes s i (s.setRegFlag x r f).advance
  | loadRegs {x : RegNum} {V : Vector Byte 16}
      (hV : ∀ j : RegNum, x.toNat < j.toNat → State.reg { s with V := V } j = s.reg j) :
      Completes s (.loadRegs x) (State.advance { s with V := V })
  | cls : Completes s .cls (s.setDisp Display.clear).advance
  | drw {x y : RegNum} {n : Imm4} {d : Display} {hit : Bool} :
      Completes s (.drw x y n) ((s.setDisp d).setReg flagReg (collisionFlag hit)).advance
  | setPc {i : Instr} {a : Word} (hi : setsPc i = true) (ha : s.pc.toNat ≤ 0xFFE → a.toNat ≤ 0x10FE) :
      Completes s i (s.setPc a)
  | call {nnn : Imm12} (h : s.SP.val < Config.stackDepth) :
      Completes s (.call nnn) ((s.push (s.pc + 2) h).setPc (addrImm nnn))
  | ret (h : 0 < s.SP.val) : Completes s .ret (s.pop.setPc (s.top h))
  | setI {i : Instr} {a : Word} (hi : ∃ nnn x, i = .ldI nnn ∨ i = .addIVx x ∨ i = .ldFontVx x) :
      Completes s i (s.setI a).advance
  | store {i : Instr} {bytes : List Byte} (hi : ∃ x, i = .ldBcdVx x ∨ i = .storeRegs x)
      (hb : s.dataAddr + bytes.length ≤ Config.memSize) :
      Completes s i (s.setMem (s.mem.writeBytes s.dataAddr bytes)).advance
  | setDT {x : RegNum} : Completes s (.ldDtVx x) (s.setDT (s.reg x)).advance
  | setST {x : RegNum} : Completes s (.ldStVx x) (s.setST (s.reg x)).advance
  | wait {x : RegNum} : Completes s (.ldVxKey x) (s.setStatus (.awaitingKey x))

/-- A skip ends at one of the two words after its own (R120). -/
theorem Completes.skipIf {s : State} {i : Instr} (hi : setsPc i = true) (cond : Bool) :
    Completes s i (s.skipIf cond) := by
  refine .setPc hi fun hpc => ?_
  cases cond <;> simp <;> omega

/-- Dxyn raises DataOutOfBounds by the table of R220, or writes a display and its collision (R191). -/
theorem exec_drw_cases {x y : RegNum} {n : Imm4} {s t : State} (h : exec (.drw x y n) s = .next t) :
    (fatalOf (.drw x y n) s = some .dataOutOfBounds ∧ t = s.enterFatal .dataOutOfBounds) ∨
      (fatalOf (.drw x y n) s = none ∧
        ∃ d hit, t = ((s.setDisp d).setReg flagReg (collisionFlag hit)).advance) := by
  simp only [exec, execDrw] at h
  split at h <;> rename_i hok <;> cases h <;> rw [State.accessOk_iff] at hok
  · exact .inr ⟨if_neg (by omega), _, _, rfl⟩
  · exact .inl ⟨if_pos (by omega), rfl⟩

/-- An instruction meets a fatal condition of R220 and changes nothing else, or meets none and completes or waits. -/
theorem exec_fatal_or_completes {i : Instr} {s t : State} (h : exec i s = .next t) :
    (∃ c, fatalOf i s = some c ∧ t = s.enterFatal c) ∨ (fatalOf i s = none ∧ Completes s i t) := by
  cases i with
  | cls => cases h; exact .inr ⟨rfl, .cls⟩
  | ret =>
    simp only [exec, execRet] at h
    split at h <;> rename_i hSP <;> cases h
    · exact .inr ⟨if_neg (by omega), .ret hSP⟩
    · exact .inl ⟨_, if_pos (by omega), rfl⟩
  | call nnn =>
    simp only [exec, execCall] at h
    split at h <;> rename_i hSP <;> cases h
    · exact .inr ⟨if_neg hSP.ne, .call hSP⟩
    · exact .inl ⟨_, if_pos (Nat.le_antisymm (Nat.lt_succ_iff.mp s.SP.isLt) (not_lt.mp hSP)), rfl⟩
  | jp nnn =>
    cases h
    exact .inr ⟨rfl, .setPc rfl fun _ => by rw [addrImm_toNat]; omega⟩
  | jpV0 nnn =>
    cases h
    exact .inr ⟨rfl, .setPc rfl fun _ => by rw [State.indexedTarget_toNat]; omega⟩
  | seImm | sneImm | seReg | sneReg => cases h; exact .inr ⟨rfl, .skipIf rfl _⟩
  | skp x | sknp x =>
    simp only [exec, execSkp, execSknp] at h
    split at h <;> rename_i hx <;> cases h <;> rw [isDigit_iff] at hx
    · exact .inr ⟨if_neg (by omega), .skipIf rfl _⟩
    · exact .inl ⟨_, if_pos (by omega), rfl⟩
  | ldImm | addImm | ldReg | orReg | andReg | xorReg | rnd | ldVxDt =>
    cases h
    exact .inr ⟨rfl, .setReg (by simp [writesReg])⟩
  | addReg | subReg | shr | subnReg | shl =>
    cases h
    exact .inr ⟨rfl, .setRegFlag (by simp [writesReg]) (by simp [writesReg])⟩
  | drw x y n =>
    obtain ⟨hf, rfl⟩ | ⟨hf, d, hit, rfl⟩ := exec_drw_cases h
    · exact .inl ⟨_, hf, rfl⟩
    · exact .inr ⟨hf, .drw⟩
  | ldI nnn => cases h; exact .inr ⟨rfl, .setI ⟨nnn, 0, .inl rfl⟩⟩
  | addIVx x => cases h; exact .inr ⟨rfl, .setI ⟨0, x, .inr (.inl rfl)⟩⟩
  | ldFontVx x =>
    simp only [exec, execLdFontVx] at h
    split at h <;> rename_i hx <;> cases h <;> rw [isDigit_iff] at hx
    · exact .inr ⟨if_neg (by omega), .setI ⟨0, x, .inr (.inr rfl)⟩⟩
    · exact .inl ⟨_, if_pos (by omega), rfl⟩
  | ldBcdVx x =>
    simp only [exec, execLdBcdVx] at h
    split at h <;> rename_i hok <;> cases h <;> rw [State.accessOk_iff] at hok
    · refine .inr ⟨if_neg (by omega), .store ⟨x, .inl rfl⟩ ?_⟩
      simp only [State.dataAddr, bcdBytes_length, Config.memSize]
      omega
    · exact .inl ⟨_, if_pos (by omega), rfl⟩
  | storeRegs x =>
    simp only [exec, execStoreRegs] at h
    split at h <;> rename_i hok <;> cases h <;> rw [State.accessOk_iff] at hok
    · refine .inr ⟨if_neg (by omega), .store ⟨x, .inr rfl⟩ ?_⟩
      simp only [State.dataAddr, State.regsUpTo_length, Config.memSize]
      omega
    · exact .inl ⟨_, if_pos (by omega), rfl⟩
  | loadRegs x =>
    simp only [exec, execLoadRegs] at h
    split at h <;> rename_i hok <;> cases h <;> rw [State.accessOk_iff] at hok
    · obtain ⟨hframe, hreg⟩ := s.loadRegsUpTo_spec x
      rw [hframe]
      exact .inr ⟨if_neg (by omega), .loadRegs fun j hj => (hreg j).trans (if_neg (by omega))⟩
    · exact .inl ⟨_, if_pos (by omega), rfl⟩
  | ldDtVx x => cases h; exact .inr ⟨rfl, .setDT⟩
  | ldStVx x => cases h; exact .inr ⟨rfl, .setST⟩
  | ldVxKey x => cases h; exact .inr ⟨rfl, .wait⟩

/-! ### One frame lemma per part of the state -/

section Frames

variable {s t : State} {i : Instr}

theorem Completes.key_eq (h : Completes s i t) : t.key = s.key := by
  cases h with
  | _ => rfl

theorem Completes.env_eq (h : Completes s i t) : t.env = s.env := by
  cases h with
  | _ => rfl

theorem Completes.out_eq (h : Completes s i t) : t.out = s.out := by
  cases h with
  | _ => rfl

/-- Only Fx33 and Fx55 write memory (R51). -/
theorem Completes.mem_eq (h : Completes s i t) (hi : ∀ x, i ≠ .ldBcdVx x ∧ i ≠ .storeRegs x) : t.mem = s.mem := by
  cases h with
  | store hst =>
    obtain ⟨x, hx | hx⟩ := hst
    · exact absurd hx (hi x).1
    · exact absurd hx (hi x).2
  | _ => rfl

/-- The display and drawPending are as before, or 00E0 or Dxyn wrote the one and set the other (R31, R33). -/
theorem Completes.disp_cases (h : Completes s i t) :
    (t.disp = s.disp ∧ t.drawPending = s.drawPending) ∨
      ((i = .cls ∨ ∃ x y n, i = .drw x y n) ∧ t.drawPending = true) := by
  cases h with
  | cls => exact .inr ⟨.inl rfl, rfl⟩
  | drw => exact .inr ⟨.inr ⟨_, _, _, rfl⟩, rfl⟩
  | _ => exact .inl ⟨rfl, rfl⟩

/-- Only 2nnn and 00EE move the stack (R27). -/
theorem Completes.stack_eq (h : Completes s i t) (hi : i ≠ .ret ∧ ∀ a, i ≠ .call a) :
    t.stack = s.stack ∧ t.SP = s.SP := by
  cases h with
  | ret => exact absurd rfl hi.1
  | call => exact absurd rfl (hi.2 _)
  | _ => exact ⟨rfl, rfl⟩

/-- Only Annn, Fx1E and Fx29 write I (R26). -/
theorem Completes.I_eq (h : Completes s i t) (hi : ∀ a x, i ≠ .ldI a ∧ i ≠ .addIVx x ∧ i ≠ .ldFontVx x) :
    t.I = s.I := by
  cases h with
  | setI hI =>
    obtain ⟨a, x, hx | hx | hx⟩ := hI
    · exact absurd hx (hi a x).1
    · exact absurd hx (hi a x).2.1
    · exact absurd hx (hi a x).2.2
  | _ => rfl

/-- Only Fx15 writes DT (R29). -/
theorem Completes.DT_eq (h : Completes s i t) (hi : ∀ x, i ≠ .ldDtVx x) : t.DT = s.DT := by
  cases h with
  | setDT => exact absurd rfl (hi _)
  | _ => rfl

/-- Only Fx18 writes ST (R29). -/
theorem Completes.ST_eq (h : Completes s i t) (hi : ∀ x, i ≠ .ldStVx x) : t.ST = s.ST := by
  cases h with
  | setST => exact absurd rfl (hi _)
  | _ => rfl

/-- A register that `writesReg` does not name reads as before (R21, R22). -/
theorem Completes.reg_eq (h : Completes s i t) {j : RegNum} (hj : writesReg i j = false) : t.reg j = s.reg j := by
  have ne_of_written : ∀ {x}, writesReg i x = true → j ≠ x := by
    rintro x hx rfl
    simp [hx] at hj
  cases h with
  | setReg hx => rw [State.reg_advance, State.reg_setReg, if_neg (ne_of_written hx)]
  | setRegFlag hx hF =>
    rw [State.reg_advance, State.reg_setRegFlag, if_neg (ne_of_written hF), if_neg (ne_of_written hx)]
  | drw => rw [State.reg_advance, State.reg_setReg, if_neg (ne_of_written rfl), State.reg_setDisp]
  | loadRegs hV => exact hV j (not_le.mp (of_decide_eq_false hj))
  | _ => rfl

/-- Only Fx0A takes a completing instruction out of its status (R203). -/
theorem Completes.status_eq (h : Completes s i t) (hi : ∀ x, i ≠ .ldVxKey x) : t.status = s.status := by
  cases h with
  | wait => exact absurd rfl (hi _)
  | _ => rfl

/-- Where no jump, call, return, skip or Fx0A runs, pc goes on by two (R104). -/
theorem Completes.pc_eq (h : Completes s i t) (hi : ∀ x, i ≠ .ldVxKey x) (hpc : setsPc i = false) :
    t.pc = s.pc + 2 := by
  cases h with
  | setPc hset => simp [hset] at hpc
  | call => cases hpc
  | ret => cases hpc
  | wait => exact absurd rfl (hi _)
  | _ => rfl

end Frames

/-- Settles O50: a fatal condition changes status and the fatal output only, and each part of the state that a completing
instruction leaves has its frame lemma. -/
theorem onlyTheNamedInstructionsWrite : Obligations.OnlyTheNamedInstructionsWrite := by
  intro i s t h
  obtain ⟨c, hc, rfl⟩ | ⟨-, hcomp⟩ := exec_fatal_or_completes h
  · exact ⟨rfl, rfl, fun _ _ => rfl, fun _ => ⟨rfl, rfl⟩, fun _ => ⟨rfl, rfl⟩, fun _ => rfl, fun _ => rfl, fun _ => rfl,
      fun _ _ => rfl, fun hnone => by simp [hc] at hnone⟩
  · refine ⟨hcomp.key_eq, hcomp.env_eq, fun hi a => by rw [hcomp.mem_eq hi], fun hi => ?_, hcomp.stack_eq, hcomp.I_eq,
      hcomp.DT_eq, hcomp.ST_eq, fun j hj => hcomp.reg_eq hj,
      fun _ => ⟨hcomp.out_eq, fun hi => ⟨hcomp.status_eq hi, hcomp.pc_eq hi⟩⟩⟩
    obtain hsame | ⟨hcls | ⟨x, y, n, hdrw⟩, -⟩ := hcomp.disp_cases
    · exact hsame
    · exact absurd hcls hi.1
    · exact absurd hdrw (hi.2 x y n)

end Sys2Proof.Machine
end

section
/-! PROOFS. The invariant: it holds after reset, and every step keeps it. An instruction is taken apart by
`exec_fatal_or_completes`, a step by `step_cases`. -/

namespace Sys2Proof.Machine

/-! ### What a completing instruction keeps -/

section Keeps

variable {s t : State} {i : Instr}

/-- Stores end inside memory, so memory stays canonical (R54). -/
theorem Completes.mem_wf (h : Completes s i t) (hwf : s.mem.wf = true) : t.mem.wf = true := by
  cases h with
  | store _ hb => exact Memory.writeBytes_wf hwf hb
  | _ => exact hwf

/-- The word after a fetched one starts at 0x1000 at most (R25). -/
theorem pc_add_two_le (hpc : s.pc.toNat ≤ 0xFFE) : (s.pc + 2).toNat ≤ 0x1000 := by
  have htwo : (2 : Word).toNat = 2 := rfl
  rw [BitVec.toNat_add, htwo]
  omega

/-- The largest pc an instruction forms is the target of Bnnn (R25). -/
theorem Completes.pc_le (h : Completes s i t) (hpc : s.pc.toNat ≤ 0xFFE)
    (hstack : ∀ k : Fin Config.stackDepth, (s.stack[k.val]).toNat ≤ 0x1000) : t.pc.toNat ≤ 0x10FE := by
  have hnext : (s.pc + 2).toNat ≤ 0x10FE := (pc_add_two_le hpc).trans (by decide)
  cases h with
  | setPc _ ha => exact ha hpc
  | call => rw [State.setPc_pc, addrImm_toNat]; omega
  | ret hSP =>
    have htop : (s.top hSP).toNat ≤ 0x1000 := hstack ⟨s.SP.val - 1, by have := s.SP.isLt; omega⟩
    exact htop.trans (by decide)
  | wait => exact hpc.trans (by decide)
  | _ => exact hnext

/-- 2nnn pushes the address after a fetched word; no other instruction writes an entry (R123). -/
theorem Completes.stack_le (h : Completes s i t) (hpc : s.pc.toNat ≤ 0xFFE)
    (hstack : ∀ k : Fin Config.stackDepth, (s.stack[k.val]).toNat ≤ 0x1000) (k : Fin Config.stackDepth) :
    (t.stack[k.val]).toNat ≤ 0x1000 := by
  cases h with
  | call =>
    simp only [State.setPc_stack, State.push_stack, Vector.getElem_set]
    split
    · exact pc_add_two_le hpc
    · exact hstack k
  | _ => exact hstack k

/-- A completing instruction goes on in its status, or is the Fx0A that waits with pc at its own address (R203). -/
theorem Completes.status_cases (h : Completes s i t) : t.status = s.status ∨ t.pc = s.pc := by
  cases h with
  | wait => exact .inr rfl
  | _ => exact .inl rfl

end Keeps

/-! ### The parts of a step keep the invariant -/

section StepParts

variable {s t : State} {i : Instr}

theorem State.Inv.beginStep (h : s.Inv) : s.beginStep.Inv where
  mem_wf := h.mem_wf
  pc_le := h.pc_le
  stack_le := h.stack_le
  wait_pc := h.wait_pc
  beep_st := nofun
  fatal_halted := nofun
  fatal_alone := fun hne => absurd rfl hne

theorem State.Inv.endStep (h : s.Inv) : s.endStep.Inv where
  mem_wf := h.mem_wf
  pc_le := h.pc_le
  stack_le := h.stack_le
  wait_pc := h.wait_pc
  beep_st := h.beep_st
  fatal_halted := h.fatal_halted
  fatal_alone := h.fatal_alone

/-- Entering a fatal condition as the first output of the step (R221). -/
theorem State.Inv.enterFatal (h : s.Inv) (hout : s.out = {}) (c : FatalCause) : (s.enterFatal c).Inv where
  mem_wf := h.mem_wf
  pc_le := h.pc_le
  stack_le := h.stack_le
  wait_pc := nofun
  beep_st := by simp [hout]
  fatal_halted := by simp
  fatal_alone := by simp [hout]

/-- The tick follows where there was no fatal condition, and beeps only as ST passes to 0 (R240, R241). -/
theorem State.Inv.tick (h : s.Inv) (hfatal : s.out.fatal = none) : s.tick.Inv where
  mem_wf := h.mem_wf
  pc_le := h.pc_le
  stack_le := h.stack_le
  wait_pc := h.wait_pc
  beep_st := by
    rw [State.tick_out, State.tick_ST]
    split
    next hST => intro _; rw [hST]; rfl
    next => intro hbeep; rw [h.beep_st hbeep]; rfl
  fatal_halted := h.fatal_halted
  fatal_alone := fun hne => absurd hfatal hne

/-- An unknown word is skipped, from an address a word was fetched at (R230). -/
theorem State.Inv.reportUnknown (h : s.Inv) (hst : s.status = .running) (hfatal : s.out.fatal = none)
    (hpc : s.pc.toNat ≤ 0xFFE) (w : Word) : (s.reportUnknown w).Inv where
  mem_wf := h.mem_wf
  pc_le := (pc_add_two_le hpc).trans (by decide)
  stack_le := h.stack_le
  wait_pc := by simp [hst]
  beep_st := h.beep_st
  fatal_halted := h.fatal_halted
  fatal_alone := fun hne => absurd hfatal hne

/-- The step of a waiting core: nothing, or the end of its Fx0A with the tick (R204). -/
theorem State.Inv.keyWait (h : s.Inv) (hout : s.out = {}) {x : RegNum} (hst : s.status = .awaitingKey x) :
    (s.keyWait x).Inv := by
  cases hedge : s.input.keyEdge with
  | none => rwa [State.keyWait_none hedge]
  | some k =>
    rw [State.keyWait_some hedge]
    have hdone : (((s.setReg x (k.setWidth 8)).advance).setStatus .running).Inv :=
      { mem_wf := h.mem_wf
        pc_le := (pc_add_two_le (h.wait_pc x hst)).trans (by decide)
        stack_le := h.stack_le
        wait_pc := nofun
        beep_st := h.beep_st
        fatal_halted := by simp [hout]
        fatal_alone := by simp [hout] }
    exact hdone.tick (by simp [hout])

/-- An instruction fetched by a Running core keeps the invariant, whether it completes or waits. -/
theorem Completes.inv (hcomp : Completes s i t) (h : s.Inv) (hout : s.out = {}) (hst : s.status = .running)
    (hpc : s.pc.toNat ≤ 0xFFE) : t.Inv where
  mem_wf := hcomp.mem_wf h.mem_wf
  pc_le := hcomp.pc_le hpc h.stack_le
  stack_le := hcomp.stack_le hpc h.stack_le
  wait_pc := fun x hx => by
    obtain hsame | hstay := hcomp.status_cases
    · rw [hsame, hst] at hx; cases hx
    · rwa [hstay]
  beep_st := by simp [hcomp.out_eq, hout]
  fatal_halted := by simp [hcomp.out_eq, hout]
  fatal_alone := by simp [hcomp.out_eq, hout]

/-- The tick at the end of an instruction comes with Running, which excludes a fatal output (R105, R106). -/
theorem State.Inv.afterInstr (h : s.Inv) : s.afterInstr.Inv := by
  by_cases hst : s.status = .running
  · rw [State.afterInstr_running hst]
    refine h.tick (Option.eq_none_iff_forall_ne_some.mpr fun c hc => ?_)
    rw [h.fatal_halted c hc] at hst
    cases hst
  · rwa [State.afterInstr_not_running hst]

end StepParts

/-- Settles O56: each case of a step keeps the invariant, and so do the clearing of the outputs before it and the use of
the inputs after it. -/
theorem everyStepKeepsTheInvariant : Obligations.EveryStepKeepsTheInvariant := by
  intro s t hs h
  have hb : s.beginStep.Inv := hs.beginStep
  obtain ⟨c, -, rfl⟩ | ⟨x, hst, rfl⟩ | ⟨hst, ⟨-, rfl⟩ | ⟨w, hw, -, rfl⟩ | ⟨w, i, u, hw, -, hu, rfl⟩⟩ := step_cases h
  · exact hb.endStep
  · exact (hb.keyWait rfl hst).endStep
  · exact (hb.enterFatal rfl .fetchOutOfBounds).endStep
  · obtain ⟨hpc, -⟩ := State.fetchWord_eq_some.mp hw
    exact ((hb.reportUnknown hst rfl hpc w).tick rfl).endStep
  · obtain ⟨hpc, -⟩ := State.fetchWord_eq_some.mp hw
    obtain ⟨c, -, rfl⟩ | ⟨-, hcomp⟩ := exec_fatal_or_completes hu
    · exact (hb.enterFatal rfl c).afterInstr.endStep
    · exact (hcomp.inv hb rfl hst hpc).afterInstr.endStep

/-- Settles O1: the registers, the stack entries and the pixels are read out of constant vectors. -/
theorem resetStateHoldsTheResetTable : Obligations.ResetStateHoldsTheResetTable := by
  refine ⟨fun x => ?_, rfl, rfl, fun k => ?_, rfl, rfl, rfl, fun _ => rfl, fun c r => ?_, rfl, rfl, rfl⟩
  · simp only [State.reg, State.reset, Vector.getElem_replicate]
  · simp only [State.reset, Vector.getElem_replicate]
  · simp only [Display.pixel, State.reset, Vector.getElem_replicate]

/-- Settles O55: the entries of the stack are zero by the reset table, and there are no outputs. -/
theorem resetStateMeetsTheInvariant : Obligations.ResetStateMeetsTheInvariant where
  mem_wf := rfl
  pc_le := by decide
  stack_le := fun k => by
    obtain ⟨-, -, -, hstack, -⟩ := resetStateHoldsTheResetTable
    simp [hstack k]
  wait_pc := nofun
  beep_st := nofun
  fatal_halted := nofun
  fatal_alone := fun hne => absurd rfl hne

end Sys2Proof.Machine
end

section
/-! PROOFS. The flag register, drawPending and the key latch: who writes them (10_state.md R22, R33, R32). -/

namespace Sys2Proof.Machine

/-! ### VF -/

/-- A result with its flag leaves 0 or 1 in VF, also where the result goes to VF (R22, D13). -/
theorem State.flag_setRegFlag (s : State) (x : RegNum) (r : Byte) (b : Bool) :
    (s.setRegFlag x r (flagByte b)).advance.reg flagReg = 0 ∨
      (s.setRegFlag x r (flagByte b)).advance.reg flagReg = 1 := by
  rw [State.reg_advance, State.reg_setRegFlag, if_pos rfl]
  exact flagByte_cases b

/-- The instructions that may write VF, by `writesReg`: the six flag instructions, and those that name register F. -/
theorem writesReg_flagReg {i : Instr} (h : writesReg i flagReg = true) :
    (∃ x y, i = .addReg x y ∨ i = .subReg x y ∨ i = .subnReg x y ∨ i = .shr x y ∨ i = .shl x y ∨ ∃ n, i = .drw x y n) ∨
      (∃ y nn, i = .ldImm 0xF nn ∨ i = .addImm 0xF nn ∨ i = .ldReg 0xF y ∨ i = .orReg 0xF y ∨ i = .andReg 0xF y ∨
        i = .xorReg 0xF y ∨ i = .rnd 0xF nn) ∨
      i = .ldVxDt 0xF ∨ i = .loadRegs 0xF := by
  cases i with
  | addReg x y | subReg x y | subnReg x y | shr x y | shl x y => exact .inl ⟨x, y, by simp⟩
  | drw x y n => exact .inl ⟨x, y, by simp⟩
  | ldImm x nn | addImm x nn | rnd x nn =>
    obtain rfl : flagReg = x := by simpa [writesReg] using h
    exact .inr (.inl ⟨0, nn, by simp⟩)
  | ldReg x y | orReg x y | andReg x y | xorReg x y =>
    obtain rfl : flagReg = x := by simpa [writesReg] using h
    exact .inr (.inl ⟨y, 0, by simp⟩)
  | ldVxDt x =>
    obtain rfl : flagReg = x := by simpa [writesReg] using h
    exact .inr (.inr (.inl rfl))
  | loadRegs x =>
    have hx : flagReg.toNat ≤ x.toNat := of_decide_eq_true h
    obtain rfl : x = flagReg := BitVec.eq_of_toNat_eq (Nat.le_antisymm (Nat.le_of_lt_succ x.isLt) hx)
    exact .inr (.inr (.inr rfl))
  | _ => cases h

/-- A core that goes on Running after an instruction met no fatal condition. -/
theorem completes_of_running {i : Instr} {s t : State} (h : exec i s = .next t) (hrun : t.status = .running) :
    Completes s i t := by
  obtain ⟨c, -, rfl⟩ | ⟨-, hcomp⟩ := exec_fatal_or_completes h
  · cases hrun
  · exact hcomp

/-- A Dxyn that leaves the core Running has drawn: it has written a display and, last, its collision (R191). -/
theorem exec_drw_running {x y : RegNum} {n : Imm4} {s t : State} (h : exec (.drw x y n) s = .next t)
    (hrun : t.status = .running) : ∃ d hit, t = ((s.setDisp d).setReg flagReg (collisionFlag hit)).advance := by
  obtain ⟨-, rfl⟩ | ⟨-, hdrawn⟩ := exec_drw_cases h
  · cases hrun
  · exact hdrawn

/-- Settles O31: a flag instruction writes its flag last, and an instruction that changes VF is one that `writesReg` names
for it. -/
theorem flagsAreZeroOrOne : Obligations.FlagsAreZeroOrOne := by
  intro i s t _ h hrun
  refine ⟨?_, fun hne => writesReg_flagReg ?_⟩
  · rintro ⟨x, y, rfl | rfl | rfl | rfl | rfl | ⟨n, rfl⟩⟩
    pick_goal 6
    · obtain ⟨d, hit, rfl⟩ := exec_drw_running h hrun
      rw [State.reg_advance, State.reg_setReg, if_pos rfl]
      exact flagByte_cases hit
    all_goals
      cases h
      exact State.flag_setRegFlag s x _ _
  · by_contra hnot
    exact hne ((completes_of_running h hrun).reg_eq (Bool.eq_false_of_not_eq_true hnot))

/-! ### What the end of an instruction and the key wait leave unchanged -/

section Unchanged

variable (s : State)

@[simp] theorem State.afterInstr_disp : s.afterInstr.disp = s.disp := by
  unfold State.afterInstr
  split <;> rfl

@[simp] theorem State.afterInstr_drawPending : s.afterInstr.drawPending = s.drawPending := by
  unfold State.afterInstr
  split <;> rfl

@[simp] theorem State.afterInstr_key : s.afterInstr.key = s.key := by
  unfold State.afterInstr
  split <;> rfl

@[simp] theorem State.keyWait_disp (x : RegNum) : (s.keyWait x).disp = s.disp := by
  unfold State.keyWait
  split <;> rfl

@[simp] theorem State.keyWait_drawPending (x : RegNum) : (s.keyWait x).drawPending = s.drawPending := by
  unfold State.keyWait
  split <;> rfl

@[simp] theorem State.keyWait_key (x : RegNum) : (s.keyWait x).key = s.key := by
  unfold State.keyWait
  split <;> rfl

end Unchanged

/-! ### drawPending -/

/-- The display and drawPending change together, in a step that fetches 00E0 or Dxyn, and then drawPending is set. -/
theorem step_disp_cases {s t : State} (h : step s = .next t) :
    (t.disp = s.disp ∧ t.drawPending = s.drawPending) ∨
      (t.drawPending = true ∧ s.Fetches ∧
        (decode s.wordAtPc = some .cls ∨ ∃ x y n, decode s.wordAtPc = some (.drw x y n))) := by
  obtain ⟨c, -, rfl⟩ | ⟨x, -, rfl⟩ | ⟨hst, ⟨-, rfl⟩ | ⟨w, -, -, rfl⟩ | ⟨w, i, u, hw, hd, hu, rfl⟩⟩ := step_cases h
  · exact .inl ⟨rfl, rfl⟩
  · exact .inl (by simp)
  · exact .inl ⟨rfl, rfl⟩
  · exact .inl ⟨rfl, rfl⟩
  · obtain ⟨hpc, rfl⟩ := State.fetchWord_eq_some.mp hw
    have hword : decode s.wordAtPc = some i := hd
    obtain ⟨c, -, rfl⟩ | ⟨-, hcomp⟩ := exec_fatal_or_completes hu
    · exact .inl (by simp)
    obtain ⟨hdisp, hpend⟩ | ⟨hi, hset⟩ := hcomp.disp_cases
    · exact .inl (by simp [hdisp, hpend])
    · refine .inr ⟨by simp [hset], ⟨hst, hpc⟩, ?_⟩
      obtain rfl | ⟨x, y, n, rfl⟩ := hi
      · exact .inl hword
      · exact .inr ⟨x, y, n, hword⟩

/-- Settles O51: a step leaves the display and drawPending alone or has drawn; a drawing instruction that completes sets
drawPending; the host's read clears it. -/
theorem drawPendingIsSetByDrawingOnly : Obligations.DrawPendingIsSetByDrawingOnly := by
  refine ⟨fun s t h => ?_, fun i s t _ h hrun hi => ?_, fun s => rfl⟩
  · obtain ⟨hdisp, hpend⟩ | ⟨hset, hdrew⟩ := step_disp_cases h
    · exact ⟨fun hs => hpend.trans hs, fun hne => absurd hdisp hne, fun hs ht => by simp [hpend, hs] at ht⟩
    · exact ⟨fun _ => hset, fun _ => hset, fun _ _ => hdrew⟩
  · obtain rfl | ⟨x, y, n, rfl⟩ := hi
    · cases h
      rfl
    · obtain ⟨d, hit, rfl⟩ := exec_drw_running h hrun
      rfl

/-! ### The key latch -/

/-- A step reads the key latch and never writes it (R38). -/
theorem step_key {s t : State} (h : step s = .next t) : t.key = s.key := by
  obtain ⟨c, -, rfl⟩ | ⟨x, -, rfl⟩ | ⟨-, ⟨-, rfl⟩ | ⟨w, -, -, rfl⟩ | ⟨w, i, u, -, -, hu, rfl⟩⟩ := step_cases h
  · rfl
  · simp
  · rfl
  · rfl
  · obtain ⟨c, -, rfl⟩ | ⟨-, hcomp⟩ := exec_fatal_or_completes hu
    · simp
    · simp [hcomp.key_eq]

/-- Of the host operations only reset and setKeys write the key latch (R246, R260). -/
theorem hostOp_key {op : HostOp} (s : State) (hreset : op ≠ .reset) (hkeys : ∀ k, op ≠ .setKeys k) :
    (hostOp op s).2.key = s.key := by
  cases op with
  | reset => exact absurd rfl hreset
  | setKeys k => exact absurd rfl (hkeys k)
  | load bytes => simp only [hostOp, State.load]; split <;> rfl
  | hostWrite addr bytes => simp only [hostOp, State.hostWrite]; split <;> rfl
  | readDisplay | consumeDrawPending | readStatus => rfl

theorem Event.apply_key {e : Event} (s : State) (hreset : e ≠ .host .reset) (hkeys : ∀ k, e ≠ .host (.setKeys k)) :
    (e.apply s).key = s.key := by
  cases e with
  | step input =>
    simp only [Event.apply]
    split
    next t h => exact (step_key h).trans (State.withInput_key s input)
    next => rfl
    next => rfl
  | host op =>
    exact hostOp_key s (fun h => hreset (congrArg Event.host h)) fun k h => hkeys k (congrArg Event.host h)

/-- What each event of a run keeps holds after the run (R59). -/
theorem runEvents_induction {P : State → Prop} {es : List Event} {s : State} (hs : P s)
    (hevent : ∀ e ∈ es, ∀ t, P t → P (e.apply t)) : P (runEvents es s) :=
  List.foldlRecOn es _ hs fun t ht e he => hevent e he t ht

/-- Settles O52: the latch is the one the run started with, after each of its events. -/
theorem keyLatchIsWrittenByTheHostOnly : Obligations.KeyLatchIsWrittenByTheHostOnly := by
  intro es s hkeys hreset
  refine runEvents_induction (P := fun t => t.key = s.key) rfl fun e he t ht => ?_
  exact (Event.apply_key t (ne_of_mem_of_not_mem he hreset) fun k => ne_of_mem_of_not_mem he (hkeys k)).trans ht

end Sys2Proof.Machine
end

-- The proofs for 20_memory.md: a fetch reads what Fx55 stored, and a run from reset meets the invariant and goes on.
section
/-! PROOFS. Fetch is coherent with the stores of Fx55 (20_memory.md R61): where Fx55 ends, what its bytes read back as,
and the word fetched at two of them. -/

namespace Sys2Proof.Machine

section Store

variable {s : State} {x : RegNum}

/-- Fx55 whose last byte is inside memory stores V0..Vx from I and completes (R174). -/
theorem exec_storeRegs_of_le (hx : s.I.toNat + x.toNat ≤ 0xFFF) :
    exec (.storeRegs x) s = .next (s.setMem (s.mem.writeBytes s.dataAddr (s.regsUpTo x))).advance :=
  if_pos (State.accessOk_iff.mpr (.inr hx))

/-- The byte at I + k that Fx55 stored is V[k] (R174). -/
theorem State.read_writeBytes_regsUpTo (hwf : s.mem.wf = true) (hx : s.I.toNat + x.toNat ≤ 0xFFF) {k : RegNum}
    (hk : k.toNat ≤ x.toNat) :
    (s.mem.writeBytes s.dataAddr (s.regsUpTo x)).read (s.I.toNat + k.toNat) = s.reg k := by
  have hend : s.dataAddr + (s.regsUpTo x).length ≤ Config.memSize := by
    rw [State.regsUpTo_length]
    exact Nat.succ_le_succ hx
  have hin : s.dataAddr ≤ s.I.toNat + k.toNat ∧ s.I.toNat + k.toNat < s.dataAddr + (s.regsUpTo x).length := by
    rw [State.regsUpTo_length, State.dataAddr]
    omega
  rw [Memory.read_writeBytes hwf hend, if_pos hin, State.dataAddr, Nat.add_sub_cancel_left,
    State.regsUpTo_getD s x _ hk, BitVec.ofNat_toNat, BitVec.setWidth_eq]

end Store

/-- A data address inside memory is formed without wrapping (R176). -/
theorem index_add_toNat {a : Word} {k : Nat} (h : a.toNat + k ≤ 0xFFF) : (a + BitVec.ofNat 16 k).toNat = a.toNat + k := by
  rw [BitVec.toNat_add, BitVec.toNat_ofNat]
  omega

/-- Settles O38: the two bytes fetched are V[j] and V[k], put together as a number by `bigEndian_toNat`. -/
theorem fetchSeesTheLatestStore : Obligations.FetchSeesTheLatestStore := by
  intro x s t hwf hx h j k hjk hk
  rw [exec_storeRegs_of_le hx] at h
  cases h
  have hpc : (s.I + BitVec.ofNat 16 j.toNat).toNat = s.I.toNat + j.toNat := index_add_toNat (by omega)
  refine ⟨bigEndian (s.reg j) (s.reg k), State.fetchWord_eq_some.mpr ?_, bigEndian_toNat _ _⟩
  simp only [State.setPc_pc, State.setPc_mem, State.advance_mem, State.setMem_mem, hpc]
  refine ⟨by omega, ?_⟩
  rw [State.read_writeBytes_regsUpTo hwf hx (by omega), Nat.add_assoc, hjk, State.read_writeBytes_regsUpTo hwf hx hk]

end Sys2Proof.Machine
end

section
/-! PROOFS. Runs (20_memory.md R59): every step answers a next state, every event keeps the invariant, and so every state
of a run from reset meets it and goes on. -/

namespace Sys2Proof.Machine

/-! ### A step always goes on -/

/-- The body of a Running step halts, reports an unknown word or runs an instruction, and each answers (R107). -/
theorem runStep_answers (s : State) : ∃ t, runStep s = .next t := by
  unfold runStep
  split
  · exact ⟨_, rfl⟩
  · split
    next => exact ⟨_, rfl⟩
    next i _ =>
      obtain ⟨t, ht⟩ := exec_answers i s
      exact ⟨t.afterInstr, by rw [ht]⟩

theorem stepBody_answers (s : State) : ∃ t, stepBody s = .next t := by
  unfold stepBody
  split
  · exact ⟨_, rfl⟩
  · exact ⟨_, rfl⟩
  · exact runStep_answers s

/-- Every state steps to a next state: no step faults and none is refused (R100). -/
theorem step_answers (s : State) : ∃ t, step s = .next t := by
  obtain ⟨t, ht⟩ := stepBody_answers s.beginStep
  exact ⟨t.endStep, by rw [step, stepCycle, ht]⟩

/-- A step event goes to the next state its step answers. -/
theorem Event.apply_step {s t : State} {input : StepInput} (h : Machine.step (s.withInput input) = .next t) :
    (Event.step input).apply s = t := by
  rw [Event.apply, h]

/-! ### The host's requests that fit -/

theorem loadFits_iff {bytes : List Byte} : loadFits bytes = true ↔ bytes.length ≤ 0xE00 := decide_eq_true_iff

theorem hostWriteFits_iff {addr : Nat} {bytes : List Byte} :
    hostWriteFits addr bytes = true ↔ bytes.length = 0 ∨ addr + bytes.length - 1 ≤ 0xFFF := by
  simp [hostWriteFits]

/-! ### What the host does keeps the invariant -/

section HostOps

variable {s : State}

theorem State.Inv.setMem (h : s.Inv) {m : Memory} (hm : m.wf = true) : (s.setMem m).Inv := { h with mem_wf := hm }

/-- The supply of inputs is no part of the core (log entry 2). -/
theorem State.Inv.withInput (h : s.Inv) (input : StepInput) : (s.withInput input).Inv := { h with }

theorem State.Inv.setKeys (h : s.Inv) (k16 : BitVec 16) : (s.setKeys k16).Inv := { h with }

theorem State.Inv.consumeDrawPending (h : s.Inv) : s.consumeDrawPending.2.Inv := { h with }

theorem State.resetCore_inv (s : State) : s.resetCore.Inv := { resetStateMeetsTheInvariant with }

/-- A load that fits ends inside memory; one that does not changes nothing (R263, R264). -/
theorem State.Inv.load (h : s.Inv) (bytes : List Byte) : (s.load bytes).2.Inv := by
  unfold State.load
  split
  next hfits =>
    rw [loadFits_iff] at hfits
    exact h.setMem (Memory.writeBytes_wf h.mem_wf (Nat.add_le_add_left hfits _))
  next => exact h

/-- A write that fits is empty or ends inside memory; one that does not changes nothing (R265). -/
theorem State.Inv.hostWrite (h : s.Inv) (addr : Nat) (bytes : List Byte) : (s.hostWrite addr bytes).2.Inv := by
  unfold State.hostWrite
  split
  next hfits =>
    cases bytes with
    | nil => exact h.setMem h.mem_wf
    | cons v vs =>
      have hend := (hostWriteFits_iff.mp hfits).resolve_left (Nat.succ_ne_zero _)
      exact h.setMem (Memory.writeBytes_wf h.mem_wf (Nat.succ_le_succ hend))
  next => exact h

theorem State.Inv.hostOp (h : s.Inv) (op : HostOp) : (Machine.hostOp op s).2.Inv := by
  cases op with
  | reset => exact s.resetCore_inv
  | load bytes => exact h.load bytes
  | hostWrite addr bytes => exact h.hostWrite addr bytes
  | setKeys k16 => exact h.setKeys k16
  | consumeDrawPending => exact h.consumeDrawPending
  | readDisplay | readStatus => exact h

end HostOps

theorem State.Inv.event {s : State} (h : s.Inv) (e : Event) : (e.apply s).Inv := by
  cases e with
  | step input =>
    obtain ⟨t, ht⟩ := step_answers (s.withInput input)
    rw [Event.apply_step ht]
    exact everyStepKeepsTheInvariant _ _ (h.withInput input) ht
  | host op => exact h.hostOp op

/-- Settles O58: the reset state meets the invariant and each event keeps it; that the run goes on needs no invariant. -/
theorem everyRunFromResetMeetsTheInvariant : Obligations.EveryRunFromResetMeetsTheInvariant := fun _ =>
  ⟨runEvents_induction resetStateMeetsTheInvariant fun e _ _ ht => ht.event e, step_answers _⟩

end Sys2Proof.Machine
end

-- The proofs for 30_encoding.md: decode and encode are inverse to each other, and decode follows the opcode map.
section
/-! PROOFS. Decode and encode (30_encoding.md R71, R72, R75, R76). The arguments are about the fields of a word that `decode`
dispatches on: what a format's word has in them, what a row's mask fixes of them, and which of them no row names. -/

namespace Sys2Proof

/-! ### Decode after encode -/

/-- The cases follow the dispatch of R75; in each, the format's field lemmas read back the opcode and the operands. -/
theorem decode_encode (i : Instr) : decode (encode i) = some i := by
  cases i with
  | cls | ret => decide
  | jp | call | ldI | jpV0 | seImm | sneImm | ldImm | addImm | rnd | seReg | sneReg | drw =>
    simp [encode, decode]
  | ldReg | orReg | andReg | xorReg | addReg | subReg | shr | subnReg | shl => simp [encode, decode, decodeAlu]
  | skp | sknp => simp [encode, decode, decodeKeySkip]
  | ldVxDt | ldVxKey | ldDtVx | ldStVx | addIVx | ldFontVx | ldBcdVx | storeRegs | loadRegs =>
    simp [encode, decode, decodeMisc]

/-- Settles O13 by `decode_encode`; every instruction is well formed (R74), so the premise is not needed. -/
theorem decodeOfEncodeIsTheInstruction : Obligations.DecodeOfEncodeIsTheInstruction := fun i _ => decode_encode i

/-! ### The fields of a word as numbers -/

section Numbers

variable (w : Word)

theorem opField_toNat : (opField w).toNat = w.toNat / 0x1000 := by
  rw [opField, BitVec.extractLsb'_toNat, Nat.shiftRight_eq_div_pow]
  have := w.isLt
  omega

theorem nField_toNat : (nField w).toNat = w.toNat % 0x10 := by
  rw [nField, BitVec.extractLsb'_toNat, Nat.shiftRight_zero]

theorem nnField_toNat : (nnField w).toNat = w.toNat % 0x100 := by
  rw [nnField, BitVec.extractLsb'_toNat, Nat.shiftRight_zero]

end Numbers

/-! ### A word is the encoding of its fields, also where the opcode fields are known by their value -/

section Formats

variable {w : Word} {op : BitVec 4}

theorem encodeNNN_eq (hop : (opField w).toNat = op.toNat) : encodeNNN op (nnnField w) = w := by
  rw [← BitVec.eq_of_toNat_eq hop, encodeNNN_fields]

theorem encodeXNN_eq (hop : (opField w).toNat = op.toNat) : encodeXNN op (xField w) (nnField w) = w := by
  rw [← BitVec.eq_of_toNat_eq hop, encodeXNN_fields]

theorem encodeXYN_eq (hop : (opField w).toNat = op.toNat) {n : BitVec 4} (hn : (nField w).toNat = n.toNat) :
    encodeXYN op (xField w) (yField w) n = w := by
  rw [← BitVec.eq_of_toNat_eq hop, ← BitVec.eq_of_toNat_eq hn, encodeXYN_fields]

theorem encodeXS_eq (hop : (opField w).toNat = op.toNat) {sub : BitVec 8} (hnn : (nnField w).toNat = sub.toNat) :
    encodeXS op (xField w) sub = w := by
  rw [← BitVec.eq_of_toNat_eq hnn]
  exact encodeXNN_eq hop

end Formats

/-! ### Encode after decode, family by family (R75) -/

section Families

variable {w : Word} {i : Instr}

theorem encode_of_decodeAlu (hop : (opField w).toNat = 0x8) (h : decodeAlu w = some i) : encode i = w := by
  unfold decodeAlu at h
  split at h
  case h_10 => cases h
  all_goals
    cases h
    exact encodeXYN_eq hop ‹_›

theorem encode_of_decodeKeySkip (hop : (opField w).toNat = 0xE) (h : decodeKeySkip w = some i) : encode i = w := by
  unfold decodeKeySkip at h
  split at h
  case h_3 => cases h
  all_goals
    cases h
    exact encodeXS_eq hop ‹_›

theorem encode_of_decodeMisc (hop : (opField w).toNat = 0xF) (h : decodeMisc w = some i) : encode i = w := by
  unfold decodeMisc at h
  split at h
  case h_10 => cases h
  all_goals
    cases h
    exact encodeXS_eq hop ‹_›

theorem encode_of_decode (h : decode w = some i) : encode i = w := by
  unfold decode at h
  split at h
  case h_1 =>
    split_ifs at h with hw hw
    all_goals
      cases h
      exact hw.symm
  case h_2 hop | h_3 hop | h_11 hop | h_12 hop =>
    cases h
    exact encodeNNN_eq hop
  case h_4 hop | h_5 hop | h_7 hop | h_8 hop | h_13 hop =>
    cases h
    exact encodeXNN_eq hop
  case h_6 hop | h_10 hop =>
    split at h
    next hn => cases h; exact encodeXYN_eq hop (congrArg BitVec.toNat hn)
    next => cases h
  case h_9 hop => exact encode_of_decodeAlu hop h
  case h_14 hop =>
    cases h
    exact encodeXYN_eq hop rfl
  case h_15 hop => exact encode_of_decodeKeySkip hop h
  case h_16 hop => exact encode_of_decodeMisc hop h
  case h_17 => cases h

end Families

/-- Settles O14 by `encode_of_decode`: what the dispatch of R75 has tested of a word is what its format fixes. -/
theorem encodeOfDecodeIsTheWord : Obligations.EncodeOfDecodeIsTheWord := fun _ _ => encode_of_decode

/-! ### The opcode map (R72) -/

theorem Instr.row_selects_encode (i : Instr) : i.row.selects (encode i) = true :=
  match i with
  | .cls => Laws.SelectsOwnRow.cls
  | .ret => Laws.SelectsOwnRow.ret
  | .jp nnn => Laws.SelectsOwnRow.jp nnn
  | .call nnn => Laws.SelectsOwnRow.call nnn
  | .seImm x nn => Laws.SelectsOwnRow.seImm x nn
  | .sneImm x nn => Laws.SelectsOwnRow.sneImm x nn
  | .seReg x y => Laws.SelectsOwnRow.seReg x y
  | .ldImm x nn => Laws.SelectsOwnRow.ldImm x nn
  | .addImm x nn => Laws.SelectsOwnRow.addImm x nn
  | .ldReg x y => Laws.SelectsOwnRow.ldReg x y
  | .orReg x y => Laws.SelectsOwnRow.orReg x y
  | .andReg x y => Laws.SelectsOwnRow.andReg x y
  | .xorReg x y => Laws.SelectsOwnRow.xorReg x y
  | .addReg x y => Laws.SelectsOwnRow.addReg x y
  | .subReg x y => Laws.SelectsOwnRow.subReg x y
  | .shr x y => Laws.SelectsOwnRow.shr x y
  | .subnReg x y => Laws.SelectsOwnRow.subnReg x y
  | .shl x y => Laws.SelectsOwnRow.shl x y
  | .sneReg x y => Laws.SelectsOwnRow.sneReg x y
  | .ldI nnn => Laws.SelectsOwnRow.ldI nnn
  | .jpV0 nnn => Laws.SelectsOwnRow.jpV0 nnn
  | .rnd x nn => Laws.SelectsOwnRow.rnd x nn
  | .drw x y n => Laws.SelectsOwnRow.drw x y n
  | .skp x => Laws.SelectsOwnRow.skp x
  | .sknp x => Laws.SelectsOwnRow.sknp x
  | .ldVxDt x => Laws.SelectsOwnRow.ldVxDt x
  | .ldVxKey x => Laws.SelectsOwnRow.ldVxKey x
  | .ldDtVx x => Laws.SelectsOwnRow.ldDtVx x
  | .ldStVx x => Laws.SelectsOwnRow.ldStVx x
  | .addIVx x => Laws.SelectsOwnRow.addIVx x
  | .ldFontVx x => Laws.SelectsOwnRow.ldFontVx x
  | .ldBcdVx x => Laws.SelectsOwnRow.ldBcdVx x
  | .storeRegs x => Laws.SelectsOwnRow.storeRegs x
  | .loadRegs x => Laws.SelectsOwnRow.loadRegs x

/-- Bits that a row's mask fixes are the bits of its match in every word that selects it. -/
theorem OpcodeRow.extractLsb'_eq_of_selects {r : OpcodeRow} {w : Word} (h : r.selects w = true) {start len : Nat}
    (hmask : r.mask.extractLsb' start len = BitVec.allOnes len) :
    w.extractLsb' start len = r.value.extractLsb' start len := by
  rw [← eq_of_beq h, BitVec.extractLsb'_and, hmask, BitVec.and_allOnes]

section Selected

variable {w : Word} {r : OpcodeRow} (h : r.selects w = true)
include h

theorem opField_of_selects (hmask : opField r.mask = 0xF) : (opField w).toNat = r.value.toNat / 0x1000 := by
  rw [← opField_toNat, opField, OpcodeRow.extractLsb'_eq_of_selects h hmask, opField]

theorem nField_of_selects (hmask : nField r.mask = 0xF) : (nField w).toNat = r.value.toNat % 0x10 := by
  rw [← nField_toNat, nField, OpcodeRow.extractLsb'_eq_of_selects h hmask, nField]

theorem nnField_of_selects (hmask : nnField r.mask = 0xFF) : (nnField w).toNat = r.value.toNat % 0x100 := by
  rw [← nnField_toNat, nnField, OpcodeRow.extractLsb'_eq_of_selects h hmask, nnField]

theorem eq_value_of_selects (hmask : r.mask = 0xFFFF) : w = r.value := by
  rw [← eq_of_beq h, hmask]
  exact BitVec.and_allOnes.symm

end Selected

/-- A word that selects a row has the fields that the row's mask fixes, and by them `decode` chooses that row (R75). -/
theorem exists_decode_of_selects {w : Word} {i : Instr} (h : i.row.selects w = true) :
    ∃ j, decode w = some j ∧ j.row = i.row := by
  cases i
  all_goals
    simp only [Instr.row] at h
    have hop := opField_of_selects h (by decide)
  case cls =>
    obtain rfl := eq_value_of_selects h rfl
    exact ⟨_, decode_encode .cls, rfl⟩
  case ret =>
    obtain rfl := eq_value_of_selects h rfl
    exact ⟨_, decode_encode .ret, rfl⟩
  case jp | call | ldI | jpV0 | seImm | sneImm | ldImm | addImm | rnd | drw => simp [decode, hop, Instr.row]
  case seReg | sneReg =>
    have hn := nField_of_selects h (by decide)
    simp [decode, BitVec.toNat_eq, hop, hn, Instr.row]
  case ldReg | orReg | andReg | xorReg | addReg | subReg | shr | subnReg | shl =>
    have hn := nField_of_selects h (by decide)
    simp [decode, decodeAlu, hop, hn, Instr.row]
  case skp | sknp =>
    have hnn := nnField_of_selects h (by decide)
    simp [decode, decodeKeySkip, hop, hnn, Instr.row]
  case ldVxDt | ldVxKey | ldDtVx | ldStVx | addIVx | ldFontVx | ldBcdVx | storeRegs | loadRegs =>
    have hnn := nnField_of_selects h (by decide)
    simp [decode, decodeMisc, hop, hnn, Instr.row]

/-- Settles O15: a decoded word is the encoding of its instruction, which selects its own row; the converse is
`exists_decode_of_selects`. -/
theorem decodeFollowsTheOpcodeMap : Obligations.DecodeFollowsTheOpcodeMap := by
  refine fun w => ⟨fun i h => ?_, fun i h => exists_decode_of_selects h⟩
  rw [← encode_of_decode h]
  exact i.row_selects_encode

/-! ### The unknown words (R76) -/

section Unknown

variable (w : Word)

theorem toNat_le_iff_opField_eq_zero : w.toNat ≤ 0x0FFF ↔ (opField w).toNat = 0x0 := by
  rw [opField_toNat]
  omega

theorem decodeAlu_eq_none_iff :
    decodeAlu w = none ↔ (nField w).toNat ∈ [0x8, 0x9, 0xA, 0xB, 0xC, 0xD, 0xF] := by
  have hlt := (nField w).isLt
  unfold decodeAlu
  generalize (nField w).toNat = n at hlt ⊢
  interval_cases n <;> simp

theorem decodeKeySkip_eq_none_iff : decodeKeySkip w = none ↔ (nnField w).toNat ∉ [0x9E, 0xA1] := by
  unfold decodeKeySkip
  split <;> simp_all

theorem decodeMisc_eq_none_iff :
    decodeMisc w = none ↔ (nnField w).toNat ∉ [0x07, 0x0A, 0x15, 0x18, 0x1E, 0x29, 0x33, 0x55, 0x65] := by
  unfold decodeMisc
  split <;> simp_all

/-- The unknown words by their fields: each family's second dispatch says which of its words it leaves out (R75). -/
theorem decode_eq_none_iff : decode w = none ↔
    ((opField w).toNat = 0x0 ∧ w ≠ 0x00E0 ∧ w ≠ 0x00EE) ∨
    ((opField w).toNat = 0x5 ∧ (nField w).toNat ≠ 0) ∨
    ((opField w).toNat = 0x8 ∧ (nField w).toNat ∈ [0x8, 0x9, 0xA, 0xB, 0xC, 0xD, 0xF]) ∨
    ((opField w).toNat = 0x9 ∧ (nField w).toNat ≠ 0) ∨
    ((opField w).toNat = 0xE ∧ (nnField w).toNat ∉ [0x9E, 0xA1]) ∨
    ((opField w).toNat = 0xF ∧
      (nnField w).toNat ∉ [0x07, 0x0A, 0x15, 0x18, 0x1E, 0x29, 0x33, 0x55, 0x65]) := by
  rw [← decodeAlu_eq_none_iff, ← decodeKeySkip_eq_none_iff, ← decodeMisc_eq_none_iff]
  have hlt := (opField w).isLt
  unfold decode
  generalize (opField w).toNat = op at hlt ⊢
  interval_cases op
  · split_ifs <;> simp [*]
  all_goals simp [BitVec.toNat_eq]

end Unknown

/-- Settles O16: `decode_eq_none_iff` with the fields written as quotients and remainders of the word. -/
theorem unknownWordsAreTheSixFamilies : Obligations.UnknownWordsAreTheSixFamilies := by
  intro w
  rw [decode_eq_none_iff, toNat_le_iff_opField_eq_zero, opField_toNat, nField_toNat, nnField_toNat]

/-- Settles O17 by evaluating `decode` on the eleven words. -/
theorem sampleWordsDecodeAsTheOpcodeMapSays : Obligations.SampleWordsDecodeAsTheOpcodeMapSays := by
  unfold Obligations.SampleWordsDecodeAsTheOpcodeMapSays
  decide

end Sys2Proof
end

-- The proofs for 40_step_cycle.md: what a step answers, how it depends on its inputs, and when it leaves pc alone.
section
/-! PROOFS. The cases of a step as equations (40_step_cycle.md R100, R107, R108): the converses of `step_cases`, one for each
case but the key wait. -/

namespace Sys2Proof.Machine

/-- Settles O12: the body of every step answers a next state, and the step goes on from it. -/
theorem everyStepAnswersANextState : Obligations.EveryStepAnswersANextState := step_answers

section Equations

variable {s u : State} {w : Word} {i : Instr}

/-- What the body answers is the state of the step before its inputs are used up (R100). -/
theorem step_of_stepBody (h : stepBody s.beginStep = .next u) : step s = .next u.endStep := by
  rw [step, stepCycle, h]

theorem step_halted {c : FatalCause} (hst : s.status = .halted c) : step s = .next s.beginStep.endStep :=
  step_of_stepBody (by rw [stepBody, State.beginStep_status, hst])

/-- The body of a Running step is fetch, decode, execute, tick (R107). -/
theorem step_running (hst : s.status = .running) (h : runStep s.beginStep = .next u) : step s = .next u.endStep :=
  step_of_stepBody (by rw [stepBody, State.beginStep_status, hst, ← h])

theorem step_fetch_none (hst : s.status = .running) (hf : s.beginStep.fetchWord = none) :
    step s = .next (s.beginStep.enterFatal .fetchOutOfBounds).endStep :=
  step_running hst (by rw [runStep, hf, raiseFatal_eq])

theorem step_unknown (hst : s.status = .running) (hf : s.beginStep.fetchWord = some w) (hd : decode w = none) :
    step s = .next (s.beginStep.reportUnknown w).tick.endStep :=
  step_running hst (by simp only [runStep, hf, hd])

theorem step_instr (hst : s.status = .running) (hf : s.beginStep.fetchWord = some w) (hd : decode w = some i)
    (hu : exec i s.beginStep = .next u) : step s = .next u.afterInstr.endStep :=
  step_running hst (by simp only [runStep, hf, hd, hu])

/-- Clearing the outputs does not move the fetch (R101). -/
theorem State.fetchWord_beginStep (hpc : s.pc.toNat ≤ 0xFFE) : s.beginStep.fetchWord = some s.wordAtPc :=
  State.fetchWord_eq_some.mpr ⟨hpc, rfl⟩

end Equations

/-- Settles O3: the three cases of a Running step, the last with the tick where the instruction left the core Running. -/
theorem runningStepFetchesDecodesExecutesTicks : Obligations.RunningStepFetchesDecodesExecutesTicks := by
  intro s hst
  refine ⟨fun hpc => step_fetch_none hst (State.fetchWord_eq_none.mpr hpc),
    fun hpc hd => step_unknown hst (State.fetchWord_beginStep hpc) hd, fun i hpc hd => ?_⟩
  obtain ⟨t, ht⟩ := exec_answers i s.beginStep
  have hstep : step s = .next t.afterInstr.endStep := step_instr hst (State.fetchWord_beginStep hpc) hd ht
  refine ⟨t, ht, fun hrun => ?_, fun hstop => ?_⟩
  · rw [hstep, State.afterInstr_running hrun]
  · rw [hstep, State.afterInstr_not_running hstop]

/-- Settles O4: the fetch finds no word, and entering the fatal condition is all that happens. -/
theorem fetchPastMemoryHalts : Obligations.FetchPastMemoryHalts := fun _ hst hpc =>
  step_fetch_none hst (State.fetchWord_eq_none.mpr hpc)

/-- A host operation other than reset neither reads status for what it writes nor writes it (R224, D26). -/
theorem hostOp_setStatus {op : HostOp} (hop : op ≠ .reset) (s : State) (st : Status) :
    (hostOp op (s.setStatus st)).2 = (hostOp op s).2.setStatus st := by
  cases op with
  | reset => exact absurd rfl hop
  | load bytes => simp only [hostOp, State.load]; split <;> rfl
  | hostWrite addr bytes => simp only [hostOp, State.hostWrite]; split <;> rfl
  | setKeys | readDisplay | consumeDrawPending | readStatus => rfl

/-- Settles O5: the halted step by its equation, and the halt put on the state of the running core before the host
operation or after it. -/
theorem haltedStepChangesNothing : Obligations.HaltedStepChangesNothing := by
  intro s c hst
  refine ⟨step_halted hst, rfl, fun op hop => ?_⟩
  have hs : s = (s.setStatus .running).setStatus (.halted c) := by rw [← hst]; rfl
  calc (hostOp op s).2
      = (hostOp op ((s.setStatus .running).setStatus (.halted c))).2 := congrArg (fun t => (hostOp op t).2) hs
    _ = (hostOp op (s.setStatus .running)).2.setStatus (.halted c) := hostOp_setStatus hop _ _

end Sys2Proof.Machine
end

section
/-! PROOFS. Where a step's inputs reach (40_step_cycle.md R100, 10_state.md R38): an instruction under another supply of
inputs, then a step under it. -/

namespace Sys2Proof.Machine

/-- The state under another supply of inputs, everything else as before. -/
def State.setEnv (s : State) (env : Env) : State := { s with env := env }

@[simp] theorem State.setEnv_status (s : State) (env : Env) : (s.setEnv env).status = s.status := rfl
@[simp] theorem State.input_setEnv (s : State) (env : Env) : (s.setEnv env).input = env.current := rfl

/-- The register loads of Fx65 do not see the inputs (R175). -/
theorem State.loadRegsUpTo_setEnv (s : State) (env : Env) (x : RegNum) :
    (s.setEnv env).loadRegsUpTo x = (s.loadRegsUpTo x).setEnv env :=
  List.foldl_hom (State.setEnv · env) fun _ _ => rfl

theorem State.afterInstr_setEnv (s : State) (env : Env) : (s.setEnv env).afterInstr = s.afterInstr.setEnv env := by
  unfold State.afterInstr
  rw [State.setEnv_status]
  split <;> rfl

/-- An instruction does the same under every supply of inputs, Cxnn as long as the random byte is the same (R151). -/
theorem exec_setEnv {i : Instr} {s t : State} {env : Env} (h : exec i s = .next t)
    (hrnd : ∀ x nn, i = .rnd x nn → env.current.rnd = s.input.rnd) : exec i (s.setEnv env) = .next (t.setEnv env) := by
  cases i with
  | rnd x nn =>
    cases h
    simp only [exec, execRnd, State.input_setEnv, hrnd x nn rfl]
    rfl
  | ret =>
    simp only [exec, execRet] at h
    split at h <;> rename_i hSP <;> cases h
    · exact dif_pos hSP
    · exact dif_neg hSP
  | call nnn =>
    simp only [exec, execCall] at h
    split at h <;> rename_i hSP <;> cases h
    · exact dif_pos hSP
    · exact dif_neg hSP
  | loadRegs x =>
    simp only [exec, execLoadRegs] at h
    split at h <;> rename_i hok <;> cases h
    · refine (if_pos hok).trans ?_
      rw [State.loadRegsUpTo_setEnv]
      rfl
    · exact if_neg hok
  | drw | skp | sknp | ldFontVx | ldBcdVx | storeRegs =>
    simp only [exec, execDrw, execSkp, execSknp, execLdFontVx, execLdBcdVx, execStoreRegs] at h
    split at h <;> rename_i hok <;> cases h
    · exact if_pos hok
    · exact if_neg hok
  | _ => cases h; rfl

/-- A step that does not wait for a key sees no input but the random byte, and uses up whatever is supplied (R100). -/
theorem step_setEnv {s t : State} {env : Env} (hwait : ∀ x, s.status ≠ .awaitingKey x)
    (hrnd : env.current.rnd = s.input.rnd) (h : step s = .next t) :
    step (s.setEnv env) = .next (t.setEnv env.advance) := by
  obtain ⟨c, hst, rfl⟩ | ⟨x, hst, -⟩ | ⟨hst, ⟨hf, rfl⟩ | ⟨w, hf, hd, rfl⟩ | ⟨w, i, u, hf, hd, hu, rfl⟩⟩ := step_cases h
  · exact step_halted hst
  · exact absurd hst (hwait x)
  · exact step_fetch_none hst hf
  · exact step_unknown hst hf hd
  · have hu' : exec i (s.setEnv env).beginStep = .next (u.setEnv env) := exec_setEnv hu fun _ _ _ => hrnd
    have hstep : step (s.setEnv env) = .next (u.setEnv env).afterInstr.endStep := step_instr hst hf hd hu'
    rw [hstep, State.afterInstr_setEnv]
    rfl

/-- Settles O53: the steps with either edge are the step of one state under two supplies, which agree on the random byte
and once used up; the instructions by `exec_setEnv`. -/
theorem inputsReachOnlyTheWaitAndTheRandomByte : Obligations.InputsReachOnlyTheWaitAndTheRandomByte := by
  refine ⟨fun s e e' r hwait => ?_, fun i s t env hi h => exec_setEnv h fun x nn hx => absurd hx (hi x nn)⟩
  obtain ⟨t, ht⟩ := step_answers (s.withInput { keyEdge := e, rnd := r })
  have hstep : ∀ edge, step (s.withInput { keyEdge := edge, rnd := r }) =
      .next (t.setEnv { inputs := s.env.inputs, stepIndex := s.env.stepIndex + 1 }) := fun edge =>
    step_setEnv (s := s.withInput { keyEdge := e, rnd := r })
      (env := (s.withInput { keyEdge := edge, rnd := r }).env) hwait rfl ht
  exact (hstep e).trans (hstep e').symm

end Sys2Proof.Machine
end

section
/-! PROOFS. When a Running step leaves pc alone (40_step_cycle.md R109): instruction by instruction, then for the step. -/

namespace Sys2Proof.Machine

theorem word_add_two_ne (a : Word) : a + 2 ≠ a := by simp

/-- Neither way of a skip leads back to it (R120). -/
theorem State.skipIf_pc_ne (s : State) (cond : Bool) : (s.skipIf cond).pc ≠ s.pc := by
  cases cond <;> simp

@[simp] theorem State.afterInstr_status (s : State) : s.afterInstr.status = s.status := by
  obtain h | h := s.afterInstr_cases <;> rw [h]
  rfl

@[simp] theorem State.afterInstr_pc (s : State) : s.afterInstr.pc = s.pc := by
  obtain h | h := s.afterInstr_cases <;> rw [h]
  rfl

/-- An instruction that leaves the core Running at its own address is a jump, call or return to that address (R109). -/
theorem exec_pc_eq_cases {i : Instr} {s t : State} (h : exec i s = .next t) (hrun : t.status = .running)
    (hpc : t.pc = s.pc) :
    (∃ nnn, nnn.toNat = s.pc.toNat ∧ (i = .jp nnn ∨ i = .call nnn)) ∨
      (∃ nnn, (s.reg 0).toNat + nnn.toNat = s.pc.toNat ∧ i = .jpV0 nnn) ∨
      (∃ k : Fin Config.stackDepth, s.SP.val = k.val + 1 ∧ s.stack[k.val] = s.pc ∧ i = .ret) := by
  cases i with
  | jp nnn =>
    cases h
    exact .inl ⟨nnn, by rw [← hpc, State.setPc_pc, addrImm_toNat], .inl rfl⟩
  | call nnn =>
    simp only [exec, execCall] at h
    split at h <;> cases h
    · exact .inl ⟨nnn, by rw [← hpc, State.setPc_pc, addrImm_toNat], .inr rfl⟩
    · cases hrun
  | jpV0 nnn =>
    cases h
    exact .inr (.inl ⟨nnn, by rw [← hpc, State.setPc_pc, State.indexedTarget_toNat], rfl⟩)
  | ret =>
    simp only [exec, execRet] at h
    split at h <;> rename_i hSP <;> cases h
    · exact .inr (.inr ⟨⟨s.SP.val - 1, by have := s.SP.isLt; omega⟩, (Nat.succ_pred_eq_of_pos hSP).symm, hpc, rfl⟩)
    · cases hrun
  | seImm | sneImm | seReg | sneReg =>
    cases h
    exact absurd hpc (s.skipIf_pc_ne _)
  | skp | sknp =>
    simp only [exec, execSkp, execSknp] at h
    split at h <;> cases h
    · exact absurd hpc (s.skipIf_pc_ne _)
    · cases hrun
  | ldVxKey => cases h; cases hrun
  | _ =>
    have hnext : t.pc = s.pc + 2 := (completes_of_running h hrun).pc_eq nofun rfl
    exact absurd (hnext.symm.trans hpc) (word_add_two_ne _)

/-- Settles O54: a halted fetch is not Running, an unknown word is skipped, and the instructions are those of
`exec_pc_eq_cases`. -/
theorem runningStepMovesPc : Obligations.RunningStepMovesPc := by
  intro s t hst h hrun hpc
  obtain ⟨c, hc, -⟩ | ⟨x, hx, -⟩ | ⟨-, ⟨-, rfl⟩ | ⟨w, -, -, rfl⟩ | ⟨w, i, u, hf, hd, hu, rfl⟩⟩ := step_cases h
  · simp [hst] at hc
  · simp [hst] at hx
  · cases hrun
  · exact absurd hpc (word_add_two_ne _)
  · obtain ⟨-, rfl⟩ := State.fetchWord_eq_some.mp hf
    have hword : decode s.wordAtPc = some i := hd
    rw [State.endStep_status, State.afterInstr_status] at hrun
    rw [State.endStep_pc, State.afterInstr_pc] at hpc
    simp only [hword, Option.some.injEq]
    exact exec_pc_eq_cases (s := s.beginStep) hu hrun hpc

end Sys2Proof.Machine
end

-- The proofs for 41_control_flow.md: the jumps, the call and the return over the operations of the stack, and the skips.
section
/-! PROOFS. Control flow (41_control_flow.md R120 to R128): what a push, a pop and a skip make of the state, and the call
and the return as equations. -/

namespace Sys2Proof.Machine

/-! ### The call stack (10_state.md R27, R28) -/

section Stack

variable {s : State} {nnn : Imm12}

/-- The top entry of a stack of depth k + 1 is entry k. -/
theorem State.top_eq {k : Fin Config.stackDepth} (hk : s.SP.val = k.val + 1) (h : 0 < s.SP.val) :
    s.top h = s.stack[k.val] := by
  simp only [State.top, hk, Nat.add_sub_cancel]

/-- What was pushed is on top. -/
@[simp] theorem State.top_push {a : Word} (h : s.SP.val < Config.stackDepth) (h' : 0 < (s.push a h).SP.val) :
    (s.push a h).top h' = a := by
  rw [State.top_eq (k := ⟨s.SP.val, h⟩) rfl, State.push_stack]
  exact Vector.getElem_set_self h

/-- A pop undoes a push but for the entry written, which it does not clear. -/
@[simp] theorem State.pop_push {a : Word} (h : s.SP.val < Config.stackDepth) :
    (s.push a h).pop = { s with stack := s.stack.set s.SP.val a h } := rfl

/-- 2nnn with room (R123). -/
theorem exec_call_of_lt (h : s.SP.val < Config.stackDepth) :
    exec (.call nnn) s = .next ((s.push (s.pc + 2) h).setPc (addrImm nnn)) := dif_pos h

/-- 00EE with a live entry (R121). -/
theorem exec_ret_of_pos (h : 0 < s.SP.val) : exec .ret s = .next (s.pop.setPc (s.top h)) := dif_pos h

/-- 2nnn with room, then 00EE: pc is the call's successor, the depth is as before, and the pushed entry is stale. -/
theorem exec_ret_after_call (h : s.SP.val < Config.stackDepth) :
    exec .ret ((s.push (s.pc + 2) h).setPc (addrImm nnn)) =
      .next { s with pc := s.pc + 2, stack := s.stack.set s.SP.val (s.pc + 2) h } := by
  have hpos : 0 < (s.push (s.pc + 2) h).SP.val := Nat.succ_pos _
  calc exec .ret ((s.push (s.pc + 2) h).setPc (addrImm nnn))
    _ = .next ((s.push (s.pc + 2) h).pop.setPc ((s.push (s.pc + 2) h).top hpos)) := exec_ret_of_pos hpos
    _ = .next (State.setPc { s with stack := s.stack.set s.SP.val (s.pc + 2) h } (s.pc + 2)) := by
      rw [State.top_push, State.pop_push]

end Stack

/-- Settles O21: the two instructions are `exec_call_of_lt` and `exec_ret_after_call`, and setting one entry leaves the
others. -/
theorem callThenReturnComesBack : Obligations.CallThenReturnComesBack := fun _ _ hroom =>
  ⟨_, _, exec_call_of_lt hroom, exec_ret_after_call hroom, rfl, rfl, fun k hk =>
    Vector.getElem_set_ne hroom k.isLt hk.symm⟩

/-- Settles O19: with room the push writes the one entry; without, the fatal branch is taken. -/
theorem callPushesItsSuccessor : Obligations.CallPushesItsSuccessor := by
  intro nnn s
  constructor
  · intro hroom
    refine ⟨_, exec_call_of_lt hroom, rfl, fun k => ?_, addrImm_toNat nnn, rfl⟩
    rw [State.setPc_stack, State.push_stack, Vector.getElem_set]
    simp only [eq_comm]
  · intro hfull
    exact dif_neg hfull.not_lt

/-- Settles O20: the popped entry is the top one by `State.top_eq`; at SP = 0 the fatal branch is taken. -/
theorem returnPopsTheTopEntry : Obligations.ReturnPopsTheTopEntry := by
  intro s
  constructor
  · intro k hk
    have hpos : 0 < s.SP.val := hk ▸ Nat.succ_pos _
    refine ⟨_, exec_ret_of_pos hpos, ?_, State.top_eq hk hpos, rfl⟩
    simp only [State.setPc_SP, State.pop_SP, hk, Nat.add_sub_cancel]
  · intro hempty
    exact dif_neg hempty.not_gt

/-! ### Jumps and skips -/

/-- Settles O18: the target is the immediate as a number. -/
theorem jumpSetsPc : Obligations.JumpSetsPc := fun nnn s => ⟨s.setPc (addrImm nnn), rfl, addrImm_toNat nnn, rfl⟩

/-- Settles O23: the sum fits sixteen bits (`State.indexedTarget_toNat`). -/
theorem indexedJumpAddsV0 : Obligations.IndexedJumpAddsV0 := fun nnn s =>
  ⟨s.setPc (s.indexedTarget nnn), rfl, s.indexedTarget_toNat nnn, rfl⟩

/-- The skip of R120 on a condition that the tested Boolean decides. -/
theorem State.skipIf_of_iff {cond : Bool} {P : Prop} [Decidable P] (h : cond = true ↔ P) (s : State) :
    s.skipIf cond = { s with pc := if P then s.pc + 4 else s.pc + 2 } := by
  simp only [State.skipIf, State.setPc, h]

/-- Settles O22: each of the four is `skipIf` on an equality or its negation. -/
theorem skipsTestTheirCondition : Obligations.SkipsTestTheirCondition := fun _ _ _ s =>
  ⟨congrArg _ (s.skipIf_of_iff beq_iff_eq), congrArg _ (s.skipIf_of_iff bne_iff_ne),
    congrArg _ (s.skipIf_of_iff beq_iff_eq), congrArg _ (s.skipIf_of_iff bne_iff_ne)⟩

end Sys2Proof.Machine
end

-- The proofs for 42_alu.md: one register written, a result with its flag written, and what the flags are as numbers.
section
/-! PROOFS. The ALU (42_alu.md R140 to R152): its instructions end in one of two ways, a register written or a result and
then its flag written. What each way leaves is said once; the values are the byte arithmetic of R152 and the flags of R22. -/

namespace Sys2Proof.Machine

/-! ### The two ways an ALU instruction ends -/

section Ends

variable {s : State} {x : RegNum}

theorem State.reg_advance_setReg {v : Byte} : (s.setReg x v).advance.reg x = v := by
  rw [State.reg_advance, State.reg_setReg, if_pos rfl]

/-- A register written and pc moved on: no other register and no other part of the state changes. -/
theorem State.frame_setReg {v : Byte} :
    RegsSameBut s (s.setReg x v).advance [x] ∧ (s.setReg x v).advance.pc = s.pc + 2 ∧
      OnlyRegsAndPc s (s.setReg x v).advance := by
  refine ⟨fun j hj => ?_, rfl, rfl⟩
  rw [State.reg_advance, State.reg_setReg, if_neg (List.ne_of_not_mem_cons hj)]

/-- The result is in Vx where VF, written after it, is another register (R22). -/
theorem State.result_setRegFlag {r f : Byte} (hx : x ≠ flagReg) : (s.setRegFlag x r f).advance.reg x = r := by
  rw [State.reg_advance, State.reg_setRegFlag, if_neg hx, if_pos rfl]

/-- The flag is in VF, x = F included (D13). -/
theorem State.reg_flagReg_setRegFlag {r f : Byte} : (s.setRegFlag x r f).advance.reg flagReg = f := by
  rw [State.reg_advance, State.reg_setRegFlag, if_pos rfl]

/-- A result and its flag written and pc moved on: no other register and no other part of the state changes. -/
theorem State.frame_setRegFlag {r f : Byte} :
    RegsSameBut s (s.setRegFlag x r f).advance [x, flagReg] ∧ (s.setRegFlag x r f).advance.pc = s.pc + 2 ∧
      OnlyRegsAndPc s (s.setRegFlag x r f).advance := by
  refine ⟨fun j hj => ?_, rfl, rfl⟩
  obtain ⟨hjx, hjF⟩ : j ≠ x ∧ j ≠ flagReg := by simpa using hj
  rw [State.reg_advance, State.reg_setRegFlag, if_neg hjF, if_neg hjx]

end Ends

/-! ### The flags and the shifted values -/

section Values

variable (a b : Byte)

theorem flagByte_decide (P : Prop) [Decidable P] : flagByte (decide P) = if P then 1 else 0 := by
  simp only [flagByte, decide_eq_true_eq]

theorem carryFlag_eq : carryFlag a b = if a.toNat + b.toNat > 255 then 1 else 0 := flagByte_decide _

/-- Equal operands do not borrow (D12). -/
theorem noBorrowFlag_eq : noBorrowFlag a b = if b.toNat > a.toNat then 0 else 1 := by
  simp only [noBorrowFlag, flagByte_decide, ← not_lt, ite_not, gt_iff_lt]

@[simp] theorem flagByte_toNat (c : Bool) : (flagByte c).toNat = c.toNat := by cases c <;> rfl

theorem shiftRightFlag_toNat : (shiftRightFlag a).toNat = a.toNat % 2 := by
  rw [shiftRightFlag, flagByte_toNat, BitVec.getLsbD, Nat.toNat_testBit, pow_zero, Nat.div_one]

theorem shiftLeftFlag_toNat : (shiftLeftFlag a).toNat = a.toNat / 128 := by
  have ha := a.isLt
  rw [shiftLeftFlag, flagByte_toNat, BitVec.getLsbD, Nat.toNat_testBit]
  omega

theorem shiftRight_one_toNat : (a >>> 1).toNat = a.toNat / 2 := by
  rw [BitVec.toNat_ushiftRight, Nat.shiftRight_one]

theorem shiftLeft_one_toNat : (a <<< 1).toNat = 2 * a.toNat % 256 := by
  rw [BitVec.toNat_shiftLeft, Nat.shiftLeft_eq, pow_one, mul_comm]

end Values

/-! ### Instructions that write one register -/

/-- Settles O24: the value written is the immediate or the other register. -/
theorem loadsWriteTheirRegister : Obligations.LoadsWriteTheirRegister := fun _ _ _ _ =>
  ⟨⟨_, rfl, State.reg_advance_setReg, State.frame_setReg⟩, ⟨_, rfl, State.reg_advance_setReg, State.frame_setReg⟩⟩

/-- Settles O25: the sum is `addByte`, and the frame of one register says that VF is not written. -/
theorem addImmediateWrapsWithoutFlag : Obligations.AddImmediateWrapsWithoutFlag := fun _ _ _ =>
  ⟨_, rfl, by rw [State.reg_advance_setReg, addByte_toNat], State.frame_setReg⟩

/-- Settles O26: the value written is the bitwise operation of bytes, and VF is not reset, by the frame. -/
theorem logicIsBitwise : Obligations.LogicIsBitwise := fun _ _ _ =>
  ⟨⟨_, rfl, fun _ => by rw [State.reg_advance_setReg, BitVec.getLsbD_or], State.frame_setReg⟩,
    ⟨_, rfl, fun _ => by rw [State.reg_advance_setReg, BitVec.getLsbD_and], State.frame_setReg⟩,
    ⟨_, rfl, fun _ => by rw [State.reg_advance_setReg, BitVec.getLsbD_xor], State.frame_setReg⟩⟩

/-- Settles O30: the value written is the step's random byte masked, and supplied inputs are the ones a step reads. -/
theorem randomByteIsMaskedBitwise : Obligations.RandomByteIsMaskedBitwise := fun _ _ s =>
  ⟨⟨_, rfl, fun _ => by rw [State.reg_advance_setReg, maskRnd, BitVec.getLsbD_and], State.frame_setReg⟩,
    fun _ _ => congrArg StepInput.rnd (s.input_withInput _)⟩

/-! ### Instructions that write a result and its flag -/

/-- Settles O27: the flag is the carry of the old values, and it is the last write. -/
theorem addSetsCarryLast : Obligations.AddSetsCarryLast := fun _ _ _ =>
  ⟨_, rfl, fun hx => by rw [State.result_setRegFlag hx, addByte_toNat],
    by rw [State.reg_flagReg_setRegFlag, carryFlag_eq], State.frame_setRegFlag⟩

/-- Settles O28: one difference and its not-borrow, with the operands of 8xy5 and exchanged for 8xy7. -/
theorem subtractSetsNotBorrowLast : Obligations.SubtractSetsNotBorrowLast := fun _ _ _ =>
  ⟨⟨_, rfl, fun hx => by rw [State.result_setRegFlag hx, subByte_toNat],
      by rw [State.reg_flagReg_setRegFlag, noBorrowFlag_eq], State.frame_setRegFlag⟩,
    ⟨_, rfl, fun hx => by rw [State.result_setRegFlag hx, subByte_toNat],
      by rw [State.reg_flagReg_setRegFlag, noBorrowFlag_eq], State.frame_setRegFlag⟩⟩

/-- Settles O29: the bit shifted out is bit 0 or bit 7 of the old value, read off it as a number. -/
theorem shiftsSetTheBitShiftedOutLast : Obligations.ShiftsSetTheBitShiftedOutLast := fun _ _ _ =>
  ⟨⟨_, rfl, fun hx => by rw [State.result_setRegFlag hx, shiftRight_one_toNat],
      by rw [State.reg_flagReg_setRegFlag, shiftRightFlag_toNat], State.frame_setRegFlag⟩,
    ⟨_, rfl, fun hx => by rw [State.result_setRegFlag hx, shiftLeft_one_toNat],
      by rw [State.reg_flagReg_setRegFlag, shiftLeftFlag_toNat], State.frame_setRegFlag⟩⟩

end Sys2Proof.Machine
end

-- The proofs for 43_index_memory.md: where each instruction on I or memory ends, and what its bytes read back as.
section
/-! PROOFS. The index register and memory (43_index_memory.md R170 to R176): each instruction inside its bound as an
equation, its fatal case read off the table of R220, and the bytes of Fx33, Fx55 and Fx65. -/

namespace Sys2Proof.Machine

/-- An instruction that the table of R220 gives a fatal condition raises it. -/
theorem raisesFatal_of_fatalOf {i : Instr} {s : State} {c : FatalCause} (hc : fatalOf i s = some c) :
    RaisesFatal i s c := by
  obtain ⟨t, ht⟩ := exec_answers i s
  obtain ⟨c', hc', rfl⟩ | ⟨hnone, -⟩ := exec_fatal_or_completes ht
  · obtain rfl : c = c' := Option.some.inj (hc.symm.trans hc')
    exact ht
  · exact absurd (hc.symm.trans hnone) (Option.some_ne_none c)

/-! ### The index register -/

@[simp] theorem State.indexPlus_toNat (s : State) (x : RegNum) :
    (s.indexPlus x).toNat = (s.I.toNat + (s.reg x).toNat) % 65536 := BitVec.toNat_ofNat _ _

/-- Settles O32: I becomes the immediate, or the sum cut to sixteen bits. -/
theorem indexIsLoadedAndAdded : Obligations.IndexIsLoadedAndAdded := fun x nnn s =>
  ⟨⟨(s.setI (addrImm nnn)).advance, rfl, addrImm_toNat nnn, rfl⟩,
    ⟨(s.setI (s.indexPlus x)).advance, rfl, s.indexPlus_toNat x, rfl⟩⟩

/-- Fx29 of a digit (R172). -/
theorem exec_ldFontVx_of_le {x : RegNum} {s : State} (hx : (s.reg x).toNat ≤ 0xF) :
    exec (.ldFontVx x) s = .next (s.setI (glyphAddr (s.reg x))).advance :=
  if_pos (isDigit_iff.mpr hx)

/-- Settles O33: what is known of the open parameters is that they are well formed, so the address does not wrap. -/
theorem fontAddressIsBasePlusStrideTimesDigit : Obligations.FontAddressIsBasePlusStrideTimesDigit := by
  intro x s
  refine ⟨fun hx => ⟨_, exec_ldFontVx_of_le hx, glyphAddr_toNat hx, rfl⟩,
    fun hx => raisesFatal_of_fatalOf (if_pos hx), ?_⟩
  have hwf : Config.fontBaseAddr.toNat + 16 * Config.fontStride.val ≤ 0x1000 :=
    of_decide_eq_true Config_font_wellFormed
  omega

/-! ### Bytes stored at I -/

/-- Byte k of the bytes written from `a` is at `a + k`. -/
theorem Memory.read_writeBytes_add {m : Memory} {a k : Nat} {vs : List Byte} (h : m.wf = true)
    (ha : a + vs.length ≤ Config.memSize) (hk : k < vs.length) :
    (m.writeBytes a vs).read (a + k) = vs.getD k Memory.unlisted := by
  rw [Memory.read_writeBytes h ha, if_pos ⟨Nat.le_add_right a k, Nat.add_lt_add_left hk a⟩, Nat.add_sub_cancel_left]

/-- Below and above the bytes written, memory reads as before. -/
theorem Memory.read_writeBytes_outside {m : Memory} {a b : Nat} {vs : List Byte} (h : m.wf = true)
    (ha : a + vs.length ≤ Config.memSize) (hb : b < a ∨ a + vs.length ≤ b) :
    (m.writeBytes a vs).read b = m.read b := by
  rw [Memory.read_writeBytes h ha, if_neg (by omega)]

/-- Fx33 whose last byte is inside memory stores the three digits and completes (R173). -/
theorem exec_ldBcdVx_of_le {x : RegNum} {s : State} (hI : s.I.toNat + 2 ≤ 0xFFF) :
    exec (.ldBcdVx x) s = .next (s.setMem (s.mem.writeBytes s.dataAddr (bcdBytes (s.reg x)))).advance :=
  if_pos (State.accessOk_iff.mpr (.inr hI))

/-- The bytes of Fx33 are the decimal digits as numbers: none is cut to eight bits (R173). -/
theorem bcdBytes_getD_toNat (v : Byte) :
    ((bcdBytes v).getD 0 Memory.unlisted).toNat = v.toNat / 100 ∧
      ((bcdBytes v).getD 1 Memory.unlisted).toNat = v.toNat / 10 % 10 ∧
      ((bcdBytes v).getD 2 Memory.unlisted).toNat = v.toNat % 10 := by
  have hv := v.isLt
  simp only [bcdBytes, List.getD_cons_zero, List.getD_cons_succ, BitVec.toNat_ofNat]
  omega

/-- Settles O34: the three bytes written from I are the digits, and the bytes outside are not written. -/
theorem bcdStoresThreeDigits : Obligations.BcdStoresThreeDigits := by
  intro x s hwf
  refine ⟨fun hI => ?_, fun hI => raisesFatal_of_fatalOf (if_pos hI)⟩
  have hend : s.dataAddr + (bcdBytes (s.reg x)).length ≤ Config.memSize := Nat.succ_le_succ hI
  have hread : ∀ k < 3, (s.mem.writeBytes s.dataAddr (bcdBytes (s.reg x))).read (s.I.toNat + k) =
      (bcdBytes (s.reg x)).getD k Memory.unlisted := fun k hk => Memory.read_writeBytes_add hwf hend hk
  obtain ⟨hundreds, tens, units⟩ := bcdBytes_getD_toNat (s.reg x)
  refine ⟨_, exec_ldBcdVx_of_le hI, ?_, ?_, ?_, fun a ha => ?_, rfl⟩
  · exact (congrArg BitVec.toNat (hread 0 (by decide))).trans hundreds
  · exact (congrArg BitVec.toNat (hread 1 (by decide))).trans tens
  · exact (congrArg BitVec.toNat (hread 2 (by decide))).trans units
  · exact Memory.read_writeBytes_outside hwf hend ha

/-- Settles O35: the bytes read back by `State.read_writeBytes_regsUpTo`, and the bytes outside are not written. -/
theorem storeRegistersWritesV0ToVx : Obligations.StoreRegistersWritesV0ToVx := by
  intro x s hwf
  refine ⟨fun hx => ?_, fun hx => raisesFatal_of_fatalOf (if_pos hx)⟩
  have hlen : (s.regsUpTo x).length = x.toNat + 1 := s.regsUpTo_length x
  refine ⟨_, exec_storeRegs_of_le hx, fun k hk => State.read_writeBytes_regsUpTo hwf hx hk, fun a ha => ?_, rfl⟩
  refine Memory.read_writeBytes_outside hwf ?_ ?_ <;> rw [hlen]
  · exact Nat.succ_le_succ hx
  · exact ha

/-! ### Registers loaded from I -/

section Load

variable {s : State} {x : RegNum}

/-- Fx65 whose last byte is inside memory loads V0..Vx from I and completes (R175). -/
theorem exec_loadRegs_of_le (hx : s.I.toNat + x.toNat ≤ 0xFFF) :
    exec (.loadRegs x) s = .next (s.loadRegsUpTo x).advance :=
  if_pos (State.accessOk_iff.mpr (.inr hx))

/-- Each register after the load loop (R175). -/
theorem State.reg_loadRegsUpTo (k : RegNum) :
    (s.loadRegsUpTo x).reg k = if k.toNat ≤ x.toNat then s.mem.read (s.I.toNat + k.toNat) else s.reg k :=
  (s.loadRegsUpTo_spec x).2 k

/-- The load loop writes V registers only, so Fx65 changes these and pc. -/
theorem State.frame_loadRegsUpTo :
    (s.loadRegsUpTo x).advance.pc = s.pc + 2 ∧ OnlyRegsAndPc s (s.loadRegsUpTo x).advance := by
  rw [(s.loadRegsUpTo_spec x).1]
  exact ⟨rfl, rfl⟩

end Load

/-- Settles O36: the registers by `State.reg_loadRegsUpTo`, up to x and above it. -/
theorem loadRegistersReadsV0ToVx : Obligations.LoadRegistersReadsV0ToVx := by
  intro x s
  refine ⟨fun hx => ⟨_, exec_loadRegs_of_le hx, fun k hk => ?_, fun k hk => ?_, State.frame_loadRegsUpTo⟩,
    fun hx => raisesFatal_of_fatalOf (if_pos hx)⟩
  · rw [State.reg_advance, State.reg_loadRegsUpTo, if_pos hk]
  · rw [State.reg_advance, State.reg_loadRegsUpTo, if_neg hk.not_ge]

/-- Settles O37: the byte Fx65 reads for Vk is the one Fx55 stored for it. -/
theorem storeThenLoadRestoresRegisters : Obligations.StoreThenLoadRestoresRegisters := by
  intro x s t u v hwf hx hstore hmem hI hload k
  rw [exec_storeRegs_of_le hx] at hstore
  cases hstore
  rw [exec_loadRegs_of_le (hI ▸ hx)] at hload
  cases hload
  rw [State.reg_advance, State.reg_loadRegsUpTo]
  by_cases hk : k.toNat ≤ x.toNat
  · rw [if_pos hk, if_pos hk, hmem, hI]
    exact State.read_writeBytes_regsUpTo hwf hx hk
  · rw [if_neg hk, if_neg hk]

end Sys2Proof.Machine
end

-- The proofs for 44_display.md: a sprite bit by bit and twice, and where Dxyn ends.
section
/-! PROOFS. The display (44_display.md R190 to R192): what `drawSprite` does is read at one sprite bit, over all of them and
at its second run; Dxyn inside its bound is then an equation. -/

namespace Sys2Proof.Machine

/-! ### A sprite, bit by bit and drawn twice -/

section Sprite

variable {m : Memory} {base cx cy k : Nat} {d : Display}

/-- What holds of some pixel under the sprite holds of the pixel of some sprite bit of 1. -/
theorem exists_underSprite_iff {P : Fin Config.dispWidth → Fin Config.dispHeight → Prop} :
    (∃ c r, UnderSprite m base cx cy k c r ∧ P c r) ↔
      ∃ j i, j < k ∧ i < 8 ∧ (m.read (base + j)).getLsbD (7 - i) = true ∧ P (wrapCol (cx + i)) (wrapRow (cy + j)) := by
  constructor
  · rintro ⟨_, _, ⟨j, hj, i, hi, hbit, rfl, rfl⟩, hP⟩
    exact ⟨j, i, hj, hi, hbit, hP⟩
  · rintro ⟨j, i, hj, hi, hbit, hP⟩
    exact ⟨_, _, ⟨j, hj, i, hi, hbit, rfl, rfl⟩, hP⟩

/-- The pixel a sprite bit falls on is its old value XOR that bit (R192). -/
theorem drawSprite_pixel_bit (hk : k ≤ 15) {j i : Nat} (hj : j < k) (hi : i < 8) :
    (drawSprite m base k cx cy d).1.pixel (wrapCol (cx + i)) (wrapRow (cy + j)) =
      (d.pixel (wrapCol (cx + i)) (wrapRow (cy + j)) ^^ (m.read (base + j)).getLsbD (7 - i)) := by
  obtain ⟨hunder, hother, -⟩ := drawSprite_spec m base cx cy d k hk
  have hiff := underSprite_iff_bit (m := m) (base := base) (cx := cx) (cy := cy) hk hj hi
  cases hbit : (m.read (base + j)).getLsbD (7 - i) with
  | true => rw [hunder _ _ (hiff.mpr hbit), Bool.xor_true]
  | false => rw [hother _ _ fun hu => Bool.false_ne_true (hbit.symm.trans (hiff.mp hu)), Bool.xor_false]

/-- A sprite drawn twice toggles each pixel under it twice. -/
theorem drawSprite_drawSprite (hk : k ≤ 15) :
    (drawSprite m base k cx cy (drawSprite m base k cx cy d).1).1 = d := by
  refine Display.ext_pixel fun c r => ?_
  rw [(drawSprite_prefix m base cx cy _ k hk).1, (drawSprite_prefix m base cx cy d k hk).1, Bool.xor_assoc,
    Bool.xor_self, Bool.xor_false]

/-- On a clear display a sprite hits nothing. -/
theorem drawSprite_hit_of_clear (hk : k ≤ 15) (hd : ∀ c r, d.pixel c r = false) :
    (drawSprite m base k cx cy d).2 = false := by
  rw [Bool.eq_false_iff, ne_eq, (drawSprite_spec m base cx cy d k hk).2.2]
  rintro ⟨c, r, -, hlit⟩
  exact Bool.false_ne_true ((hd c r).symm.trans hlit)

/-- Every pixel that a sprite lights on a clear display is under it, so its second drawing hits each. -/
theorem drawSprite_hit_again_of_clear (hk : k ≤ 15) (hd : ∀ c r, d.pixel c r = false) :
    (drawSprite m base k cx cy (drawSprite m base k cx cy d).1).2 = true ↔
      ∃ c r, (drawSprite m base k cx cy d).1.pixel c r = true := by
  obtain ⟨-, hother, -⟩ := drawSprite_spec m base cx cy d k hk
  rw [(drawSprite_spec m base cx cy _ k hk).2.2]
  refine exists₂_congr fun c r => and_iff_right_of_imp fun hlit => ?_
  by_contra hout
  rw [hother c r hout, hd c r] at hlit
  cases hlit

end Sprite

/-! ### Where the display instructions end -/

/-- The display Dxyn leaves and whether its sprite hit a lit pixel, in a state whose sprite bytes are all in memory. -/
def State.drawn (s : State) (x y : RegNum) (n : Imm4) : Display × Bool :=
  drawSprite s.mem s.I.toNat n.toNat (s.reg x).toNat (s.reg y).toNat s.disp

/-- A sprite has at most 15 rows. -/
theorem Imm4.toNat_le (n : Imm4) : n.toNat ≤ 15 := Nat.le_of_lt_succ n.isLt

section Draw

variable {x y : RegNum} {n : Imm4} {s t : State}

/-- Dxyn whose sprite bytes are all in memory draws, reports the collision and completes (R191). -/
theorem exec_drw_of_accessOk (hok : s.accessOk n.toNat = true) :
    exec (.drw x y n) s =
      .next ((s.setDisp (s.drawn x y n).1).setReg flagReg (collisionFlag (s.drawn x y n).2)).advance :=
  if_pos hok

/-- A Dxyn that leaves the core Running had its sprite bytes in memory. -/
theorem accessOk_of_drw_running (h : exec (.drw x y n) s = .next t) (hrun : t.status = .running) :
    s.accessOk n.toNat = true := by
  by_contra hno
  have hfatal : exec (.drw x y n) s = .next (s.enterFatal .dataOutOfBounds) := if_neg hno
  cases hfatal.symm.trans h
  cases hrun

end Draw

/-! ### The obligations -/

/-- Settles O39: the buffer written is the clear one. -/
theorem clearTurnsEveryPixelOff : Obligations.ClearTurnsEveryPixelOff := fun s =>
  ⟨(s.setDisp Display.clear).advance, rfl, Display.pixel_clear, rfl⟩

/-- Settles O40: each pixel by its one sprite bit, VF as the last write, and the fatal case by the table of R220. -/
theorem drawTogglesThePixelsUnderTheSprite : Obligations.DrawTogglesThePixelsUnderTheSprite := by
  intro x y n s
  have hn := Imm4.toNat_le n
  refine ⟨fun hok => ?_, fun hne hI =>
    raisesFatal_of_fatalOf (if_pos ⟨Nat.pos_of_ne_zero fun h0 => hne (BitVec.eq_of_toNat_eq h0), hI⟩)⟩
  obtain ⟨-, hother, hhit⟩ := drawSprite_spec s.mem s.I.toNat (s.reg x).toNat (s.reg y).toNat s.disp n.toNat hn
  refine ⟨_, exec_drw_of_accessOk (State.accessOk_iff.mpr (hok.imp_left (congrArg BitVec.toNat))),
    fun j i hj hi => drawSprite_pixel_bit hn hj hi, fun c r hout => hother c r ?_, ?_, ?_,
    (State.frame_setReg (s := s.setDisp _)).1, rfl⟩
  · rintro ⟨j, hj, i, hi, -, hc, hr⟩
    exact hout j i hj hi ⟨hc, hr⟩
  · rw [State.reg_advance_setReg]
    exact flagByte_cases _
  · rw [State.reg_advance_setReg, collisionFlag, flagByte_eq_one]
    exact hhit.trans exists_underSprite_iff

/-- Settles O41: both draws use one sprite, and the second draws it on the display of the first. -/
theorem drawingTwiceRestoresTheDisplay : Obligations.DrawingTwiceRestoresTheDisplay := by
  intro x y n s t u v _ hfirst hrun hdisp hmem hI hx hy hsecond
  have hn := Imm4.toNat_le n
  have hok := accessOk_of_drw_running hfirst hrun
  rw [exec_drw_of_accessOk hok] at hfirst
  cases hfirst
  rw [exec_drw_of_accessOk (by rwa [State.accessOk, State.dataAddr, hI])] at hsecond
  cases hsecond
  have hagain : u.drawn x y n =
      drawSprite s.mem s.I.toNat n.toNat (s.reg x).toNat (s.reg y).toNat (s.drawn x y n).1 := by
    rw [State.drawn, hmem, hI, hx, hy, hdisp]
    rfl
  rw [hagain]
  refine ⟨drawSprite_drawSprite hn, fun hclear => ⟨?_, ?_⟩⟩
  · rw [State.reg_advance_setReg, State.drawn, drawSprite_hit_of_clear hn hclear]
    rfl
  · rw [State.reg_advance_setReg, collisionFlag, flagByte_eq_one]
    exact drawSprite_hit_again_of_clear hn hclear

end Sys2Proof.Machine
end

-- The proofs for 45_keys_timers.md: the key skips, the timer reads and writes with the tick of their step, the key wait.
section
/-! PROOFS. Keys and timers (45_keys_timers.md R200 to R206): the key skips of a key number, the step of an instruction that
completes and the step of a waiting core as equations, and the tick where nothing was put out before it. -/

namespace Sys2Proof.Machine

section Equations

variable {s u : State} {i : Instr} {x : RegNum}

/-- Ex9E of a key number (R200). -/
theorem exec_skp_of_le (hx : (s.reg x).toNat ≤ 0xF) : exec (.skp x) s = .next (s.skipIf (s.keyDown (s.reg x))) :=
  if_pos (isDigit_iff.mpr hx)

/-- ExA1 of a key number (R201). -/
theorem exec_sknp_of_le (hx : (s.reg x).toNat ≤ 0xF) : exec (.sknp x) s = .next (s.skipIf (!s.keyDown (s.reg x))) :=
  if_pos (isDigit_iff.mpr hx)

/-- The step of an instruction that leaves the core Running ends with the tick (R105, R107). -/
theorem step_completes (hs : s.Fetches) (hd : decode s.wordAtPc = some i) (hu : exec i s.beginStep = .next u)
    (hrun : u.status = .running) : step s = .next u.tick.endStep := by
  obtain ⟨hst, hpc⟩ := hs
  rw [step_instr hst (State.fetchWord_beginStep hpc) hd hu, State.afterInstr_running hrun]

/-- The step of a waiting core is the key wait (R100, R204). -/
theorem step_awaitingKey (hst : s.status = .awaitingKey x) : step s = .next (s.beginStep.keyWait x).endStep :=
  step_of_stepBody (by rw [stepBody, State.beginStep_status, hst])

/-- Where nothing was put out before the tick, the beep of a sound timer at 1 is all that its step puts out (R240). -/
theorem State.tick_of_cleared (hout : s.out = { beep := false, unknown := none, fatal := none }) :
    s.tick = { s with DT := tickDown s.DT, ST := tickDown s.ST,
                      out := { beep := decide (s.ST = 1), unknown := none, fatal := none } } := by
  rw [State.tick, hout]
  by_cases hST : s.ST = 1
  · rw [if_pos hST, decide_eq_true hST]
  · rw [if_neg hST, decide_eq_false hST]

end Equations

/-- Settles O42: of a key number each is `skipIf` on the latch's bit or its negation; above, the table of R220 gives the
fatal condition. -/
theorem keySkipsTestTheLatch : Obligations.KeySkipsTestTheLatch := fun _ s =>
  ⟨fun hx => ⟨(exec_skp_of_le hx).trans (congrArg _ (s.skipIf_of_iff Iff.rfl)),
      (exec_sknp_of_le hx).trans (congrArg _ (s.skipIf_of_iff (Bool.not_eq_true' _).to_iff))⟩,
    fun hx => ⟨raisesFatal_of_fatalOf (if_pos hx), raisesFatal_of_fatalOf (if_pos hx)⟩⟩

/-- Settles O43: Fx07 writes one register and moves on, which `State.frame_setReg` describes. -/
theorem timersAreReadAndSet : Obligations.TimersAreReadAndSet := fun _ _ =>
  ⟨⟨_, rfl, State.reg_advance_setReg, State.frame_setReg⟩, rfl, rfl⟩

/-- Settles O44: the tick acts on the timer just written, and the beep is that of the ST just written. -/
theorem timerWriteIsTickedInTheSameStep : Obligations.TimerWriteIsTickedInTheSameStep := by
  intro x s hs
  have hrun : s.status = .running := hs.left
  refine ⟨fun hd => ⟨_, step_completes hs hd rfl hrun, tickDown_toNat _⟩,
    fun hd => ⟨_, step_completes hs hd rfl hrun, tickDown_toNat _, ?_⟩⟩
  rw [State.tick_of_cleared rfl]
  exact decide_eq_true_iff

/-- Settles O45: Fx0A takes the core out of Running, so no tick follows it. -/
theorem keyWaitIsEntered : Obligations.KeyWaitIsEntered := fun _ _ =>
  ⟨rfl, fun ⟨hst, hpc⟩ hd => step_instr hst (State.fetchWord_beginStep hpc) hd rfl⟩

/-- Settles O46: the two cases of the key wait; with an edge, the register write by `State.frame_setReg` and then the tick. -/
theorem keyEdgeCompletesTheWait : Obligations.KeyEdgeCompletesTheWait := by
  intro x s hst
  refine ⟨fun k hedge => ?_, fun hedge => ?_⟩
  · have hstep : step s =
        .next ((s.beginStep.setReg x (k.setWidth 8)).advance.setStatus .running).tick.endStep := by
      rw [step_awaitingKey hst, State.keyWait_some (s := s.beginStep) hedge]
    obtain ⟨hregs, -, -⟩ := State.frame_setReg (s := s.beginStep) (x := x) (v := k.setWidth 8)
    refine ⟨_, hstep, ?_, hregs, congrArg State.endStep (State.tick_of_cleared rfl), tickDown_toNat _, tickDown_toNat _⟩
    calc ((s.beginStep.setReg x (k.setWidth 8)).advance.reg x).toNat
      _ = (k.setWidth 8).toNat := congrArg BitVec.toNat State.reg_advance_setReg
      _ = k.toNat := BitVec.toNat_setWidth_of_le (by decide)
  · rw [step_awaitingKey hst, State.keyWait_none (s := s.beginStep) hedge]
    rfl

end Sys2Proof.Machine
end

-- The proofs for 60_exceptions.md: the tick and the unknown word, which step halts and as what, and how a halt persists.
section
/-! PROOFS. The tick, the unknown word and the host's reads (60_exceptions.md R222, R223, R230, R240, R245, R246): each an
equation of the model. -/

namespace Sys2Proof.Machine

/-- Where no beep was put out before the tick, it beeps exactly if the sound timer was at 1 (R240). -/
theorem State.tick_of_silent {s : State} (hbeep : s.out.beep = false) :
    s.tick = { s with DT := tickDown s.DT, ST := tickDown s.ST, out := { s.out with beep := decide (s.ST = 1) } } := by
  simp [State.tick, hbeep]

/-- Settles O8: both timers by `tickDown_toNat`, the beep by the two branches of the tick. -/
theorem tickCountsDownAndBeeps : Obligations.TickCountsDownAndBeeps := fun _ =>
  ⟨rfl, tickDown_toNat _, tickDown_toNat _, rfl, fun hST => if_pos hST, fun hST => if_neg hST⟩

/-- Settles O7: the report comes before the tick and is no beep, so the tick acts as in a silent state. -/
theorem unknownWordIsReportedAndSkipped : Obligations.UnknownWordIsReportedAndSkipped := fun _ ⟨hst, hpc⟩ hd =>
  ⟨_, step_unknown hst (State.fetchWord_beginStep hpc) hd, congrArg State.endStep (State.tick_of_silent rfl),
    tickDown_toNat _, tickDown_toNat _⟩

/-- Settles O11: the rows of R222. -/
theorem causeCodesAreTheTable : Obligations.CauseCodesAreTheTable := ⟨rfl, rfl, rfl, rfl, rfl, rfl, rfl⟩

/-- Settles O49: the four operations as they are defined. -/
theorem hostReadsAndSetKeys : Obligations.HostReadsAndSetKeys := fun _ _ => ⟨rfl, rfl, rfl, rfl⟩

end Sys2Proof.Machine
end

section
/-! PROOFS. Fatal conditions (60_exceptions.md R220, R221, R226): an instruction halts the core by the table alone, and
`step_halts` says which Running steps halt, with which cause and in which state. -/

namespace Sys2Proof.Machine

section Halts

variable {s t : State} {i : Instr} {c : FatalCause}

/-- An instruction that meets no fatal condition goes on Running or waits for a key (R105). -/
theorem Completes.status_ne_halted (h : Completes s i t) (hst : s.status = .running) : t.status ≠ .halted c := by
  cases h with
  | wait => exact nofun
  | _ => exact fun hc => nomatch hst.symm.trans hc

/-- FetchOutOfBounds is the cause of a fetch, never of an instruction (R220). -/
theorem fatalOf_ne_fetchOutOfBounds : fatalOf i s ≠ some .fetchOutOfBounds := by
  cases i with
  | ret | call | drw | skp | sknp | ldFontVx | ldBcdVx | storeRegs | loadRegs =>
    simp only [fatalOf]
    split <;> nofun
  | _ => exact nofun

/-- An instruction halts a Running core exactly by the table of R220. -/
theorem exec_halts_iff (hst : s.status = .running) (h : exec i s = .next t) :
    t.status = .halted c ↔ fatalOf i s = some c := by
  obtain ⟨c', hc', rfl⟩ | ⟨hnone, hcomp⟩ := exec_fatal_or_completes h
  · rw [hc', State.enterFatal_status, Status.halted.injEq, Option.some.injEq]
  · exact iff_of_false (hcomp.status_ne_halted hst) (by simp [hnone])

/-- A Running step that halts does nothing but enter the fatal condition, at its fetch or at the instruction it fetched
(R221, R226). -/
theorem step_halts (hst : s.status = .running) (h : step s = .next t) (hc : t.status = .halted c) :
    t = (s.beginStep.enterFatal c).endStep ∧
      ((c = .fetchOutOfBounds ∧ 0xFFE < s.pc.toNat) ∨
        ∃ i, decode s.wordAtPc = some i ∧ fatalOf i s.beginStep = some c) := by
  obtain ⟨c', hh, -⟩ | ⟨x, hw, -⟩ | ⟨-, ⟨hf, rfl⟩ | ⟨w, -, -, rfl⟩ | ⟨w, i, u, hf, hd, hu, rfl⟩⟩ := step_cases h
  · cases hst.symm.trans hh
  · cases hst.symm.trans hw
  · cases hc
    exact ⟨rfl, .inl ⟨rfl, State.fetchWord_eq_none.mp hf⟩⟩
  · cases hst.symm.trans hc
  · rw [State.endStep_status, State.afterInstr_status] at hc
    obtain ⟨c', hc', rfl⟩ | ⟨-, hcomp⟩ := exec_fatal_or_completes hu
    · cases hc
      obtain ⟨-, rfl⟩ := State.fetchWord_eq_some.mp hf
      exact ⟨rfl, .inr ⟨i, hd, hc'⟩⟩
    · exact absurd hc (hcomp.status_ne_halted hst)

/-- A Running step halts with FetchOutOfBounds exactly if pc is past the last word (R101, R220). -/
theorem step_halts_fetchOutOfBounds_iff (hst : s.status = .running) (h : step s = .next t) :
    t.status = .halted .fetchOutOfBounds ↔ 0xFFE < s.pc.toNat := by
  refine ⟨fun hc => ?_, fun hpc => ?_⟩
  · obtain ⟨-, ⟨-, hpc⟩ | ⟨i, -, hi⟩⟩ := step_halts hst h hc
    · exact hpc
    · exact absurd hi fatalOf_ne_fetchOutOfBounds
  · cases h.symm.trans (fetchPastMemoryHalts s hst hpc)
    rfl

end Halts

/-- Settles O9: the instructions by `exec_halts_iff`, the fetch by `step_halts_fetchOutOfBounds_iff`; the report of an
unknown word and the tick leave status alone. -/
theorem fatalConditionsAreTheTable : Obligations.FatalConditionsAreTheTable := by
  refine ⟨fun i s hst => ?_, fun s t hst h => ⟨step_halts_fetchOutOfBounds_iff hst h, fun hpc hd => ?_⟩⟩
  · obtain ⟨t, ht⟩ := exec_answers i s
    exact ⟨t, ht, fun c => exec_halts_iff hst ht⟩
  · cases h.symm.trans (step_unknown hst (State.fetchWord_beginStep hpc) hd)
    exact hst

/-- Settles O10: the state `step_halts` gives, with its parts written out. -/
theorem fatalConditionsArePrecise : Obligations.FatalConditionsArePrecise := fun _ _ _ hst h hc =>
  (step_halts hst h hc).left

end Sys2Proof.Machine
end

section
/-! PROOFS. A halt persists until reset (60_exceptions.md R224): a frame that every event but reset keeps of a halted core,
and the bare run of a halted core. -/

namespace Sys2Proof.Machine

/-- `t` is `s` but for what the host writes between steps (memory, the key latch, drawPending), the outputs and the
inputs. -/
def OnlyHostParts (s t : State) : Prop :=
  t = { s with mem := t.mem, key := t.key, drawPending := t.drawPending, out := t.out, env := t.env }

section Frame

variable {s t u : State} {c : FatalCause}

theorem OnlyHostParts.refl (s : State) : OnlyHostParts s s := rfl

theorem OnlyHostParts.trans (hst : OnlyHostParts s t) (htu : OnlyHostParts t u) : OnlyHostParts s u := by
  rw [OnlyHostParts] at *
  rw [htu, hst]

/-- The parts that the frame keeps, one by one. -/
theorem OnlyHostParts.parts (h : OnlyHostParts s t) :
    t.status = s.status ∧ t.V = s.V ∧ t.I = s.I ∧ t.pc = s.pc ∧ t.stack = s.stack ∧ t.SP = s.SP ∧ t.DT = s.DT ∧
      t.ST = s.ST ∧ t.disp = s.disp := by
  rw [OnlyHostParts] at h
  rw [h]
  exact ⟨rfl, rfl, rfl, rfl, rfl, rfl, rfl, rfl, rfl⟩

/-- A host operation other than reset writes only memory, the key latch or drawPending (R245, R246, R263, R265). -/
theorem hostOp_onlyHostParts {op : HostOp} (hop : op ≠ .reset) (s : State) : OnlyHostParts s (hostOp op s).2 := by
  cases op with
  | reset => exact absurd rfl hop
  | load bytes => simp only [hostOp, State.load]; split <;> rfl
  | hostWrite addr bytes => simp only [hostOp, State.hostWrite]; split <;> rfl
  | setKeys | readDisplay | consumeDrawPending | readStatus => rfl

/-- An event other than reset leaves a halted core as it is, but for what the host writes (R108, R224). -/
theorem Event.apply_onlyHostParts {e : Event} (he : e ≠ .host .reset) (hst : s.status = .halted c) :
    OnlyHostParts s (e.apply s) := by
  cases e with
  | step input =>
    rw [Event.apply_step (step_halted (s := s.withInput input) hst)]
    rfl
  | host op => exact hostOp_onlyHostParts (fun hop => he (congrArg Event.host hop)) s

/-- A run of events without reset does the same. -/
theorem runEvents_onlyHostParts {es : List Event} (hreset : .host .reset ∉ es) (hst : s.status = .halted c) :
    OnlyHostParts s (runEvents es s) :=
  runEvents_induction (P := OnlyHostParts s) (.refl s) fun _ he _ ht =>
    ht.trans (Event.apply_onlyHostParts (ne_of_mem_of_not_mem he hreset) (ht.parts.left.trans hst))

end Frame

/-- A run whose first step answers a next state goes on from it. -/
theorem run_succ_of_step {s t : State} (h : step s = .next t) (n : Nat) :
    Host.Core.run core (n + 1) s = Host.Core.run core n t := by
  have hcore : core.step s = .next t := h
  simp only [Host.Core.run, hcore]

/-- Under steps alone a halted core changes its outputs and uses up its inputs, and nothing else (R108, R224). -/
theorem run_halted {c : FatalCause} (n : Nat) {s : State} (hst : s.status = .halted c) :
    ∃ t, Host.Core.run core n s = .next t ∧ t = { s with out := t.out, env := t.env } := by
  induction n generalizing s with
  | zero => exact ⟨s, rfl, rfl⟩
  | succ n ih =>
    obtain ⟨t, ht, hframe⟩ := ih (s := s.beginStep.endStep) hst
    exact ⟨t, (run_succ_of_step (step_halted hst) n).trans ht, hframe⟩

/-- Settles O6: the parts of the state are those that the frame of the run of events keeps; the bare run by `run_halted`. -/
theorem haltPersistsUntilReset : Obligations.HaltPersistsUntilReset := by
  refine fun s c hst => ⟨fun es hreset => ?_, fun n => run_halted n hst⟩
  obtain ⟨hstatus, hkept⟩ := (runEvents_onlyHostParts hreset hst).parts
  exact ⟨hstatus.trans hst, hkept⟩

end Sys2Proof.Machine
end

-- The proofs for 70_reset_and_hazards.md: what reset, load and hostWrite leave, and that they keep the invariant.
section
/-! PROOFS. The host operations between steps (70_reset_and_hazards.md R260 to R265): reset is idempotent, a request that
fits fills memory, and one that does not is rejected whole. -/

namespace Sys2Proof.Machine

/-! ### Reset -/

/-- Reset is idempotent (R261). -/
theorem State.resetCore_resetCore (s : State) : s.resetCore.resetCore = s.resetCore := rfl

/-- Settles O2: the state after reset is `State.resetCore`, which keeps the supply of inputs and is idempotent. -/
theorem resetOperationRestoresTheResetState : Obligations.ResetOperationRestoresTheResetState := fun s =>
  ⟨s.resetCore, rfl, rfl, congrArg (Prod.mk HostReply.done) s.resetCore_resetCore⟩

/-! ### Requests that fill memory -/

/-- The bytes that `m'` holds at `a` and above are `vs`; everywhere else it reads as `m`. -/
def Memory.FilledFrom (m : Memory) (a : Nat) (vs : List Byte) (m' : Memory) : Prop :=
  (∀ k (h : k < vs.length), m'.read (a + k) = vs[k]) ∧ ∀ b, b < a ∨ a + vs.length ≤ b → m'.read b = m.read b

/-- Bytes that are none, at any address, or that end inside memory fill it (R56). -/
theorem Memory.filledFrom_writeBytes {m : Memory} {a : Nat} {vs : List Byte} (h : m.wf = true)
    (hfits : vs.length = 0 ∨ a + vs.length - 1 ≤ 0xFFF) : m.FilledFrom a vs (m.writeBytes a vs) := by
  cases vs with
  | nil => exact ⟨fun k hk => absurd hk (Nat.not_lt_zero k), fun _ _ => rfl⟩
  | cons v vs =>
    have hend : a + (v :: vs).length ≤ Config.memSize := Nat.succ_le_succ (hfits.resolve_left (Nat.succ_ne_zero _))
    refine ⟨fun k hk => ?_, fun b hb => Memory.read_writeBytes_outside h hend hb⟩
    rw [Memory.read_writeBytes_add h hend hk, List.getD_eq_getElem _ _ hk]

section Requests

variable {s : State} {bytes : List Byte} {addr : Nat}

/-- A load that fits (R263). -/
theorem State.load_of_le (h : bytes.length ≤ 0xE00) :
    s.load bytes = (.ok, s.setMem (s.mem.writeBytes 0x200 bytes)) := if_pos (loadFits_iff.mpr h)

/-- A load that is too large (R263, R264). -/
theorem State.load_of_gt (h : 0xE00 < bytes.length) : s.load bytes = (.loadTooLarge, s) :=
  if_neg fun hfits => Nat.not_le_of_gt h (loadFits_iff.mp hfits)

/-- A write that fits (R265). -/
theorem State.hostWrite_of_fits (h : bytes.length = 0 ∨ addr + bytes.length - 1 ≤ 0xFFF) :
    s.hostWrite addr bytes = (.ok, s.setMem (s.mem.writeBytes addr bytes)) := if_pos (hostWriteFits_iff.mpr h)

/-- A write that passes the end of memory (R265). -/
theorem State.hostWrite_of_gt (hpos : 0 < bytes.length) (hend : 0xFFF < addr + bytes.length - 1) :
    s.hostWrite addr bytes = (.writeOutOfBounds, s) :=
  if_neg fun hfits => (hostWriteFits_iff.mp hfits).elim (Nat.ne_of_gt hpos) (Nat.not_le_of_gt hend)

end Requests

/-- Settles O47: at most 0xE00 bytes from 0x200 end inside memory, so they fill it; a load that is larger writes none. -/
theorem loadFillsTheProgramArea : Obligations.LoadFillsTheProgramArea := by
  refine fun bytes s hwf => ⟨fun hlen => ?_, State.load_of_gt⟩
  have hend : 0x200 + bytes.length - 1 ≤ 0xFFF := by omega
  obtain ⟨hinside, houtside⟩ := Memory.filledFrom_writeBytes hwf (.inr hend)
  exact ⟨_, State.load_of_le hlen, hinside, houtside, rfl⟩

/-- Settles O48: a write that fits fills memory; one that passes its end writes nothing. -/
theorem hostWriteFillsMemory : Obligations.HostWriteFillsMemory := by
  refine fun addr bytes s hwf => ⟨fun hfits => ?_, State.hostWrite_of_gt⟩
  obtain ⟨hinside, houtside⟩ := Memory.filledFrom_writeBytes hwf hfits
  exact ⟨_, State.hostWrite_of_fits hfits, hinside, houtside, rfl⟩

/-! ### The invariant -/

/-- Settles O57: operation by operation in `State.Inv.hostOp`; load and hostWrite write only bytes that fit. -/
theorem everyHostOperationKeepsTheInvariant : Obligations.EveryHostOperationKeepsTheInvariant := fun _ op h =>
  h.hostOp op

end Sys2Proof.Machine
end
